-- ==== Sys2Proof/Word.lean ====
section
/-! DEFINITION. Word types of the CHIP-8 core: 8-bit registers and memory bytes (R21, R60), 16-bit pc, I, stack
entries and instruction words (R27, R31, R32, R90), and the operand widths of the encoding (R91). -/

namespace Sys2Proof

/-- A general register, a timer, a memory byte or an `nn` immediate (R21, R34, R35, R60, R93). -/
abbrev Byte := BitVec 8

/-- pc, I, a stack entry, `opcode` or an instruction word (R27, R31, R32, R42, R90). -/
abbrev Word := BitVec 16

/-- The 12-bit address operand `nnn` = `w[11:0]` (R91, R93). -/
abbrev Addr12 := BitVec 12

/-- The number of a general register V0..VF (R21), an `x` or `y` operand. -/
abbrev Reg := Fin 16

/-- The number of a keypad key 0x0..0xF (R37). -/
abbrev Key := Fin 16

end Sys2Proof
end

