-- ==== Sys2Proof/Syntax.lean ====
section
/-! DEFINITION. The instructions of the CHIP-8 core: one constructor per row of spec/opcode_table.json (R96). Register
numbers are `Fin 16` and immediates have the width of their field, so these are in range by their type; the sprite height
`n` is a count and is checked in WellFormed.lean. -/

namespace Sys2Proof

/-- The 34 instructions of R96, each with the operands its row names. -/
inductive Instr where
  /-- 00E0 Clear screen (R120). -/
  | cls
  /-- 00EE Return from subroutine (R140). -/
  | ret
  /-- 1nnn Jump (R141). -/
  | jp (nnn : Addr12)
  /-- 2nnn Call (R142). -/
  | call (nnn : Addr12)
  /-- 3xnn Skip if V[x] equals nn (R143). -/
  | seImm (x : Reg) (nn : Byte)
  /-- 4xnn Skip if V[x] differs from nn (R144). -/
  | sneImm (x : Reg) (nn : Byte)
  /-- 5xy0 Skip if V[x] equals V[y] (R145). -/
  | seReg (x y : Reg)
  /-- 6xnn Load immediate (R171). -/
  | ldImm (x : Reg) (nn : Byte)
  /-- 7xnn Add immediate (R172). -/
  | addImm (x : Reg) (nn : Byte)
  /-- 8xy0 Copy (R173). -/
  | ldReg (x y : Reg)
  /-- 8xy1 OR (R174). -/
  | or (x y : Reg)
  /-- 8xy2 AND (R175). -/
  | and (x y : Reg)
  /-- 8xy3 XOR (R176). -/
  | xor (x y : Reg)
  /-- 8xy4 Add registers (R177). -/
  | addReg (x y : Reg)
  /-- 8xy5 Subtract (R178). -/
  | sub (x y : Reg)
  /-- 8xy6 Shift right; `y` is decoded but not read (R179, R98). -/
  | shr (x y : Reg)
  /-- 8xy7 Reverse subtract (R180). -/
  | subn (x y : Reg)
  /-- 8xyE Shift left; `y` is decoded but not read (R181, R98). -/
  | shl (x y : Reg)
  /-- 9xy0 Skip if V[x] differs from V[y] (R146). -/
  | sneReg (x y : Reg)
  /-- Annn Set index (R200). -/
  | ldI (nnn : Addr12)
  /-- Bnnn Jump with offset V0 (R147). -/
  | jpV0 (nnn : Addr12)
  /-- Cxnn Random AND (R183). -/
  | rnd (x : Reg) (nn : Byte)
  /-- Dxyn Draw sprite of n rows (R121). -/
  | drw (x y : Reg) (n : Nat)
  /-- Ex9E Skip if key V[x] is pressed (R230). -/
  | skp (x : Reg)
  /-- ExA1 Skip if key V[x] is not pressed (R231). -/
  | sknp (x : Reg)
  /-- Fx07 Read the delay timer (R232). -/
  | ldVDT (x : Reg)
  /-- Fx0A Wait for a key press (R235, R236). -/
  | ldVK (x : Reg)
  /-- Fx15 Store into the delay timer (R233). -/
  | ldDTV (x : Reg)
  /-- Fx18 Store into the sound timer (R234). -/
  | ldSTV (x : Reg)
  /-- Fx1E Add register to index (R201). -/
  | addI (x : Reg)
  /-- Fx29 Set index to a font glyph (R202). -/
  | ldF (x : Reg)
  /-- Fx33 Store BCD digits (R203). -/
  | ldB (x : Reg)
  /-- Fx55 Register dump (R204). -/
  | ldMemV (x : Reg)
  /-- Fx65 Register load (R205). -/
  | ldVMem (x : Reg)
  deriving DecidableEq, Repr

end Sys2Proof
end

