-- ==== Sys2Proof/WellFormed.lean ====
section
/-! DEFINITION. When an instruction term stands for an instruction of the ISA: every operand fits its field (R91, R92,
R93). Registers and immediates fit by their types; the sprite height `n` of Dxyn is "an unsigned 4-bit count 0..15". -/

namespace Sys2Proof

/-- Every operand fits the field that the encoding gives it (R93). -/
def Instr.wf : Instr → Bool
  | .drw _ _ n => decide (n < 16)
  | .cls | .ret | .jp _ | .call _ | .seImm _ _ | .sneImm _ _ | .seReg _ _ | .ldImm _ _ | .addImm _ _ | .ldReg _ _
  | .or _ _ | .and _ _ | .xor _ _ | .addReg _ _ | .sub _ _ | .shr _ _ | .subn _ _ | .shl _ _ | .sneReg _ _ | .ldI _
  | .jpV0 _ | .rnd _ _ | .skp _ | .sknp _ | .ldVDT _ | .ldVK _ | .ldDTV _ | .ldSTV _ | .addI _ | .ldF _ | .ldB _
  | .ldMemV _ | .ldVMem _ => true

end Sys2Proof
end

