-- ==== Sys2Proof/Decode.lean ====
section
/-! DEFINITION. Decoding and encoding. An instruction is one 16-bit word fetched big-endian (R90, R65); the fields are
those of R91, the map is R96, decoding is strict (R98), and every word outside the map is an unknown word, rejected by
name (R97). `encode` is written from the formats of R92 as concatenations of bit fields, high bits first. -/

namespace Sys2Proof

/-- The leading nibble `w[15:12]`, the family (R91). -/
def famOf (w : Word) : BitVec 4 := w.extractLsb' 12 4

/-- The field `x` = `w[11:8]`, a register number (R91, R93). -/
def fieldX (w : Word) : Reg := (w.extractLsb' 8 4).toFin

/-- The field `y` = `w[7:4]`, a register number (R91, R93). -/
def fieldY (w : Word) : Reg := (w.extractLsb' 4 4).toFin

/-- The field `n` = `w[3:0]`; also the function code of families 5, 8 and 9 (R91). -/
def fieldN (w : Word) : BitVec 4 := w.extractLsb' 0 4

/-- The field `nn` = `w[7:0]`; also the function code of families E and F (R91). -/
def fieldNN (w : Word) : Byte := w.extractLsb' 0 8

/-- The field `nnn` = `w[11:0]` (R91). -/
def fieldNNN (w : Word) : Addr12 := w.extractLsb' 0 12

/-- Family 0: the two words 00E0 and 00EE, every bit fixed (R96, R97 item 1). -/
def decodeFam0 (w : Word) : Option Instr :=
  if w = 0x00E0#16 then some .cls
  else if w = 0x00EE#16 then some .ret
  else none

/-- Family 8: the function code `w[3:0]` selects the operation (R96, R97 item 3). -/
def decodeFam8 (x y : Reg) (g : BitVec 4) : Option Instr :=
  if g = 0x0#4 then some (.ldReg x y)
  else if g = 0x1#4 then some (.or x y)
  else if g = 0x2#4 then some (.and x y)
  else if g = 0x3#4 then some (.xor x y)
  else if g = 0x4#4 then some (.addReg x y)
  else if g = 0x5#4 then some (.sub x y)
  else if g = 0x6#4 then some (.shr x y)
  else if g = 0x7#4 then some (.subn x y)
  else if g = 0xE#4 then some (.shl x y)
  else none

/-- Family E: the function byte `w[7:0]` selects the key test (R96, R97 item 5). -/
def decodeFamE (x : Reg) (g : Byte) : Option Instr :=
  if g = 0x9E#8 then some (.skp x)
  else if g = 0xA1#8 then some (.sknp x)
  else none

/-- Family F: the function byte `w[7:0]` selects the operation (R96, R97 item 6). -/
def decodeFamF (x : Reg) (g : Byte) : Option Instr :=
  if g = 0x07#8 then some (.ldVDT x)
  else if g = 0x0A#8 then some (.ldVK x)
  else if g = 0x15#8 then some (.ldDTV x)
  else if g = 0x18#8 then some (.ldSTV x)
  else if g = 0x1E#8 then some (.addI x)
  else if g = 0x29#8 then some (.ldF x)
  else if g = 0x33#8 then some (.ldB x)
  else if g = 0x55#8 then some (.ldMemV x)
  else if g = 0x65#8 then some (.ldVMem x)
  else none

/-- `Decode` of R98: the 34 instructions of R96, and `none` for an unknown word (R97). -/
def decodeWord (w : Word) : Option Instr :=
  let fam := famOf w
  if fam = 0x0#4 then decodeFam0 w
  else if fam = 0x1#4 then some (.jp (fieldNNN w))
  else if fam = 0x2#4 then some (.call (fieldNNN w))
  else if fam = 0x3#4 then some (.seImm (fieldX w) (fieldNN w))
  else if fam = 0x4#4 then some (.sneImm (fieldX w) (fieldNN w))
  else if fam = 0x5#4 then (if fieldN w = 0x0#4 then some (.seReg (fieldX w) (fieldY w)) else none)
  else if fam = 0x6#4 then some (.ldImm (fieldX w) (fieldNN w))
  else if fam = 0x7#4 then some (.addImm (fieldX w) (fieldNN w))
  else if fam = 0x8#4 then decodeFam8 (fieldX w) (fieldY w) (fieldN w)
  else if fam = 0x9#4 then (if fieldN w = 0x0#4 then some (.sneReg (fieldX w) (fieldY w)) else none)
  else if fam = 0xA#4 then some (.ldI (fieldNNN w))
  else if fam = 0xB#4 then some (.jpV0 (fieldNNN w))
  else if fam = 0xC#4 then some (.rnd (fieldX w) (fieldNN w))
  else if fam = 0xD#4 then some (.drw (fieldX w) (fieldY w) (fieldN w).toNat)
  else if fam = 0xE#4 then decodeFamE (fieldX w) (fieldNN w)
  else decodeFamF (fieldX w) (fieldNN w)

/-- Why bytes are no instruction. -/
inductive DecodeError where
  /-- The word is an unknown instruction word (R97). -/
  | unknownWord (w : Word)
  /-- Fewer than the two bytes of an instruction (R90). -/
  | truncated
  deriving DecidableEq, Repr

/-- The big-endian composition of an instruction word, `high_byte << 8 | low_byte` (R65, R67). -/
def composeWord (hi lo : Byte) : Word := hi ++ lo

/-- The byte at the lower address of a word laid out in memory: its high byte (R65). -/
def hiByte (w : Word) : Byte := w.extractLsb' 8 8

/-- The byte at the higher address of a word laid out in memory: its low byte (R65). -/
def loByte (w : Word) : Byte := w.extractLsb' 0 8

/-- Decode the instruction at the head of a byte sequence and return it with the rest; exactly two bytes are consumed
(R90, R100). -/
def decode : List Byte → Except DecodeError (Instr × List Byte)
  | hi :: lo :: rest =>
    match decodeWord (composeWord hi lo) with
    | some i => .ok (i, rest)
    | none => .error (.unknownWord (composeWord hi lo))
  | _ => .error .truncated

/-- The 16-bit word of the host's number: bits at `nbits` and above are 0. -/
def tableWord (nbits w : Nat) : Word := BitVec.ofNat 16 (w % 2 ^ nbits)

/-- The instruction the decoder reads from the word numbered as spec/opcode_table.json numbers it: laid out big-endian,
high byte first, and decoded. -/
def decodeTableWord (nbits w : Nat) : Option Instr :=
  match decode [hiByte (tableWord nbits w), loByte (tableWord nbits w)] with
  | .ok (i, _) => some i
  | .error _ => none

/-- The four bits of a register number. -/
def regBits (r : Reg) : BitVec 4 := BitVec.ofFin r

/-- Format `A` of R92: family, 12-bit address. -/
def encA (f : BitVec 4) (nnn : Addr12) : Word := f ++ nnn

/-- Format `XI` of R92: family, register, 8-bit immediate. Format `X` has the function byte in the same place. -/
def encXI (f : BitVec 4) (x : Reg) (nn : Byte) : Word := f ++ regBits x ++ nn

/-- Formats `XY` and `XYN` of R92: family, two registers, and the function code or the count `n`. -/
def encXYN (f : BitVec 4) (x y : Reg) (g : BitVec 4) : Word := f ++ regBits x ++ regBits y ++ g

/-- The word of an instruction, from the formats of R92 and the patterns of R96. -/
def encode : Instr → Word
  | .cls => 0x00E0#16
  | .ret => 0x00EE#16
  | .jp nnn => encA 0x1#4 nnn
  | .call nnn => encA 0x2#4 nnn
  | .seImm x nn => encXI 0x3#4 x nn
  | .sneImm x nn => encXI 0x4#4 x nn
  | .seReg x y => encXYN 0x5#4 x y 0x0#4
  | .ldImm x nn => encXI 0x6#4 x nn
  | .addImm x nn => encXI 0x7#4 x nn
  | .ldReg x y => encXYN 0x8#4 x y 0x0#4
  | .or x y => encXYN 0x8#4 x y 0x1#4
  | .and x y => encXYN 0x8#4 x y 0x2#4
  | .xor x y => encXYN 0x8#4 x y 0x3#4
  | .addReg x y => encXYN 0x8#4 x y 0x4#4
  | .sub x y => encXYN 0x8#4 x y 0x5#4
  | .shr x y => encXYN 0x8#4 x y 0x6#4
  | .subn x y => encXYN 0x8#4 x y 0x7#4
  | .shl x y => encXYN 0x8#4 x y 0xE#4
  | .sneReg x y => encXYN 0x9#4 x y 0x0#4
  | .ldI nnn => encA 0xA#4 nnn
  | .jpV0 nnn => encA 0xB#4 nnn
  | .rnd x nn => encXI 0xC#4 x nn
  | .drw x y n => encXYN 0xD#4 x y (BitVec.ofNat 4 n)
  | .skp x => encXI 0xE#4 x 0x9E#8
  | .sknp x => encXI 0xE#4 x 0xA1#8
  | .ldVDT x => encXI 0xF#4 x 0x07#8
  | .ldVK x => encXI 0xF#4 x 0x0A#8
  | .ldDTV x => encXI 0xF#4 x 0x15#8
  | .ldSTV x => encXI 0xF#4 x 0x18#8
  | .addI x => encXI 0xF#4 x 0x1E#8
  | .ldF x => encXI 0xF#4 x 0x29#8
  | .ldB x => encXI 0xF#4 x 0x33#8
  | .ldMemV x => encXI 0xF#4 x 0x55#8
  | .ldVMem x => encXI 0xF#4 x 0x65#8

end Sys2Proof
end

