-- ==== Sys2Proof/Config.lean ====
section
/-! DEFINITION. What is fixed for the machine and does not change as it runs: the parameters of R8 and the one free
value of the spec, the random byte of Cxnn. (The font bytes, R8's `FONT`, stand in Machine/Font.lean; the choices
`SHIFT_SOURCE = X` and `DRAW_EDGE = fault` are the operations `shiftOperand` and `offGrid`; `CPU_RATE` is OPEN and read by
no rule, so it has no definition; `MEM_INIT` is the memory of the state a statement starts from, log entry 1.) -/

namespace Sys2Proof.Config

/-- `MEM_SIZE`: bytes in the address space, addresses 0..4095 (R8, R60). -/
@[simp, reducible] def memSize : Nat := 4096

/-- `PROG_BASE`: load address of the ROM and reset value of pc (R8, R30). -/
@[simp, reducible] def progBase : Nat := 512

/-- `MAX_ROM`: the largest ROM in bytes (R8, R303). -/
@[simp, reducible] def maxRom : Nat := 3584

/-- `FONT_BASE`: the first address of the font (R8, R45). -/
@[simp, reducible] def fontBase : Nat := 0

/-- `GLYPH_BYTES`: bytes per font glyph (R8, R202). -/
@[simp, reducible] def glyphBytes : Nat := 5

/-- The draw of Cxnn: `randomByte k` is the byte of the `k`-th draw, "a free value 0..255 supplied to the step, under no
law" (R12, R46, R183). It has no body, so no proof can see a value of it. Log entry 4. -/
opaque randomByte : Nat → Byte

end Sys2Proof.Config
end

