-- ==== Sys2Proof/Machine/State.lean ====
section
/-! DEFINITION. The state of the machine: every component of the tuple of R20, and after it the model's own fields (the
draws of Cxnn, the outputs to the host, the agents' agenda, and whether the last step was an Initialize); the reasons a
step can stop; and the state after reset (R302). -/

namespace Sys2Proof.Machine

/-- Memory `M[0..4095]` (R60): the cells that differ from what an unlisted address reads as (`unlisted` in
Machine/Ops.lean), addresses strictly rising. `Memory.wf` there states the canonical form. -/
abbrev Memory := List Host.Cell

/-- The 64×32 framebuffer (R36): 32 rows of 64 one-bit pixels, row 0 first, bit `col` of a row the pixel of column `col`.
Cell `c` of the spec's flat array is bit `c mod 64` of row `c div 64` (`Framebuffer.cell` in Machine/Ops.lean); log entry
10. -/
abbrev Framebuffer := Vector (BitVec 64) 32

/-- A blank screen: every cell 0 (R36, R300). -/
def blankScreen : Framebuffer := Vector.replicate 32 0#64

/-- The run state of R38. -/
inductive RunState where
  /-- Executes one instruction per CPU step (R94). -/
  | running
  /-- An Fx0A is waiting for a key press; pc points at it (R235). -/
  | awaitingKey (x : Reg)
  /-- A fatal fault stopped the CPU; only Initialize leaves this (R262, R263). -/
  | faulted
  deriving DecidableEq, Repr

/-- The fatal fault causes of R261. -/
inductive Cause where
  /-- Code 1: fetch with pc > 4094 (R68). -/
  | fetchOob
  /-- Code 2: call with sp = 16 (R142). -/
  | stackOverflow
  /-- Code 3: return with sp = 0 (R140). -/
  | stackUnderflow
  /-- Code 4: data access at an address > 4095 (R71). -/
  | memOob
  /-- Code 5: set sprite bit outside the 64×32 grid (R124). -/
  | drawOob
  /-- Code 6: key index above 15 (R230, R231). -/
  | keyOob
  deriving DecidableEq, Repr

/-- The `info` of a fault record: one number, or the column and row of a sprite bit (R261). -/
inductive FaultInfo where
  | value (n : Nat)
  | pixel (col row : Nat)
  deriving DecidableEq, Repr

/-- The fault record of R40. -/
structure FaultRecord where
  /-- Why (R261). -/
  cause : Cause
  /-- pc of the faulting instruction. -/
  pc : Word
  /-- The instruction word, or 0 for `FETCH_OOB`. -/
  word : Word
  /-- The cause's value (R261). -/
  info : FaultInfo
  deriving DecidableEq, Repr

/-- The one advisory cause (R268). -/
inductive AdvisoryCause where
  | unknownOpcode
  deriving DecidableEq, Repr

/-- A record of the advisory log (R41, R268): the cause, the offending word and the pc it was fetched from. -/
structure Advisory where
  cause : AdvisoryCause
  word : Word
  addr : Word
  deriving DecidableEq, Repr

/-- What the core hands to the host as an event (R288): a published frame (R280), or the failure of a load (R304). -/
inductive Output where
  | publish (frame : Framebuffer)
  | capacityExceeded
  deriving DecidableEq, Repr

/-- A step of one of the three agents (R7, R81, R288): the CPU, the timer, or one of the host's moves. -/
inductive Event where
  /-- The CPU's step (R94, R236). -/
  | cpu
  /-- The timer's step (R275). -/
  | tick
  /-- The host's Initialize (R300). -/
  | init
  /-- The host's LoadProgram (R303). -/
  | load (rom : List Byte)
  /-- The host's Press (R282). -/
  | press (k : Key)
  /-- The host's Release (R283). -/
  | release (k : Key)
  deriving DecidableEq, Repr

/-- The state of the core. The fields down to `cycleCount` are the tuple of R20, under the spec's names; the last four are
the model's own. -/
structure State where
  /-- General registers V0..VF; V[15] is VF (R21, R22). -/
  V : Vector Byte 16
  /-- Index register (R31). -/
  I : Word
  /-- Program counter (R27). -/
  pc : Word
  /-- Stack pointer, an integer 0..16: the number of live entries (R32). -/
  sp : Fin 17
  /-- Return-address stack, entries 0..15; entries from sp up are stale (R32, R33). -/
  stack : Vector Word 16
  /-- Delay timer (R34). -/
  DT : Byte
  /-- Sound timer (R35). -/
  ST : Byte
  /-- Memory (R60). -/
  M : Memory
  /-- Framebuffer (R36). -/
  fb : Framebuffer
  /-- Key states; true means pressed (R37). -/
  keys : Vector Bool 16
  /-- The instruction word most recently fetched (R42). -/
  opcode : Word
  /-- The CPU's run state (R38). -/
  run : RunState
  /-- The key whose press ended the wait, or nothing (R39). -/
  keyLatch : Option Key
  /-- The fault record, or none (R40). -/
  fault : Option FaultRecord
  /-- The advisory log, oldest first (R41). -/
  advisory : List Advisory
  /-- CPU steps completed without a fatal fault since the last Initialize (R43). -/
  cycleCount : Nat
  /-- The model's own: how many draws Cxnn has made; draw `k` is `Config.randomByte k`. Log entry 4. -/
  draws : Nat
  /-- The model's own: what the core has handed to the host, oldest first (R86, R280, R304). Log entry 9. -/
  outputs : List Output
  /-- The model's own: which agents step next, in order; when it is empty the CPU steps. Log entry 5. -/
  agenda : List Event
  /-- The model's own: whether the last step was an Initialize, LoadProgram's precondition (R288, R306). Log entry 8. -/
  justInitialized : Bool
  deriving DecidableEq, Repr

/-- The state after a power-on and the host's Initialize (R302): memory lists nothing (the font is what addresses 0..79
then read as, and MEM_INIT is taken as 0, log entry 1), the keys are released, and the blank frame of Initialize has been
published. The model's own fields start at 0 draws, an empty agenda and `justInitialized`. -/
def State.reset : State where
  V := Vector.replicate 16 0#8
  I := 0#16
  pc := 512#16
  sp := 0
  stack := Vector.replicate 16 0#16
  DT := 0#8
  ST := 0#8
  M := []
  fb := blankScreen
  keys := Vector.replicate 16 false
  opcode := 0#16
  run := .running
  keyLatch := none
  fault := none
  advisory := []
  cycleCount := 0
  draws := 0
  outputs := [.publish blankScreen]
  agenda := []
  justInitialized := true

/-- Why the machine stops. (A fatal fault of R261 is no stop of the model: its entry is a next state, R262.) -/
inductive Fault where
  /-- Raised by `step` when it is the CPU's turn and `run` is `Faulted`: there "the CPU has no step" (R38, R262). It carries
  the fault record. SAFE: the core stops here too, until an Initialize (log entry 7). -/
  | cpuFaulted (record : Option FaultRecord)
  deriving DecidableEq, Repr

/-- Why the model gives no meaning. -/
inductive Refusal where
  /-- An instruction whose meaning is not written yet. No arm of `exec` answers this. SAFE. -/
  | notModelled (mnemonic : String)
  /-- Raised by `step` when the agenda asks for a LoadProgram that does not follow an Initialize directly: "the host does
  not issue it" (U16 of 93_implementation_defined.md, R306). SAFE (log entry 8). -/
  | loadNotAfterInitialize
  deriving DecidableEq, Repr

end Sys2Proof.Machine
end

