-- ==== Sys2Proof/Machine/Ops.lean ====
section
/-! DEFINITION. The named operations over the state that the meanings share: one byte of memory, one register, one cell of
the framebuffer; the pc updates of R95; push and pop (R33); the fetch (R67); taking a fatal fault (R262) and Initialize,
the only way out of one (R263, R300); the advisory report (R268) and the publish (R280). -/

namespace Sys2Proof.Machine

/-! ### Memory -/

/-- What an address that memory does not list reads as: the font at 0..79 (R45, R64), and 0 elsewhere (`MEM_INIT`, which
the spec leaves arbitrary: DESIGN CHOICE, log entry 1). -/
def unlisted (a : Nat) : Byte := font.getD a 0#8

/-- `M[a]`: one byte of memory (R11). -/
def Memory.read : Memory → Nat → Byte
  | [], a => unlisted a
  | (b, v) :: rest, a => if a = b then v else Memory.read rest a

/-- Put a cell in its place among cells with rising addresses. -/
def Memory.insertCell (a : Nat) (v : Byte) : Memory → Memory
  | [] => [(a, v)]
  | c :: rest => if a < c.1 then (a, v) :: c :: rest else c :: Memory.insertCell a v rest

/-- `M[a] <- v` (R11), keeping the canonical form: the old cell goes, and the new one is listed unless it equals what an
unlisted address reads as. -/
def Memory.write (m : Memory) (a : Nat) (v : Byte) : Memory :=
  let others := m.filter (fun c => c.1 != a)
  if v = unlisted a then others else Memory.insertCell a v others

/-- Successive bytes at increasing addresses (R65): `M[a] <- v0`, `M[a+1] <- v1`, .... -/
def Memory.writeBytes (m : Memory) : Nat → List Byte → Memory
  | _, [] => m
  | a, v :: rest => Memory.writeBytes (Memory.write m a v) (a + 1) rest

/-- The canonical form: addresses strictly rising and below 4096, no cell equal to what an unlisted address reads as. -/
def Memory.wf : Memory → Bool
  | [] => true
  | (a, v) :: rest =>
    decide (a < Config.memSize) && decide (v ≠ unlisted a) && rest.all (fun c => decide (a < c.1)) && Memory.wf rest

/-! ### Framebuffer -/

/-- `fb[c]`: the pixel at column `c mod 64` and row `c div 64` (R36). -/
def Framebuffer.cell (fb : Framebuffer) (c : Nat) : Bool := (fb[c / 64]?.getD 0#64).getLsbD (c % 64)

/-- `fb[c] <- fb[c] XOR 1` (R121). -/
def Framebuffer.flip (fb : Framebuffer) (c : Nat) : Framebuffer :=
  fb.setIfInBounds (c / 64) ((fb[c / 64]?.getD 0#64) ^^^ BitVec.twoPow 64 (c % 64))

/-! ### Registers and pc -/

/-- The flag register VF = V[15] (R22). -/
def VF : Reg := 15

/-- `V[x]` (R11). -/
def State.reg (s : State) (x : Reg) : Byte := s.V[x]

/-- `V[x] <- v` (R11). -/
def State.setReg (s : State) (x : Reg) (v : Byte) : State := { s with V := s.V.set x v }

/-- `advance`: `pc <- (pc + 2) mod 2^16` (R12). -/
def State.advance (s : State) : State := { s with pc := s.pc + 2#16 }

/-- `skip`: `pc <- (pc + 4) mod 2^16` (R12). -/
def State.skip (s : State) : State := { s with pc := s.pc + 4#16 }

/-- A skip instruction's pc update: `skip` if the condition holds, else `advance` (R95). -/
def State.skipIf (s : State) (holds : Bool) : State := if holds then s.skip else s.advance

/-! ### Call stack -/

/-- `Push(v)` of R33: store, then increment; `none` where sp = 16. -/
def State.push (s : State) (v : Word) : Option State :=
  if h : s.sp.val < 16 then
    some { s with stack := s.stack.set s.sp.val v, sp := ⟨s.sp.val + 1, Nat.succ_lt_succ h⟩ }
  else none

/-- `Pop()` of R33: decrement, then load; the entry keeps its value; `none` where sp = 0. -/
def State.pop (s : State) : Option (Word × State) :=
  if h : 0 < s.sp.val then
    some (s.stack[s.sp.val - 1], { s with sp := ⟨s.sp.val - 1, by omega⟩ })
  else none

/-! ### Fetch -/

/-- The fetch primitive of R67: `M[pc] ++ M[pc + 1]`, big-endian; `none` where pc > 4094 (R68). No alignment (R70). -/
def State.fetch (s : State) : Option Word :=
  if s.pc.toNat > 4094 then none
  else some (composeWord (s.M.read s.pc.toNat) (s.M.read (s.pc.toNat + 1)))

/-! ### Fatal faults, and the way out -/

/-- Fault entry (R262): `run` and `fault` are written and nothing else; `pc` still holds the faulting instruction. -/
def State.takeFault (s : State) (cause : Cause) (word : Word) (info : FaultInfo) : State :=
  { s with run := .faulted, fault := some { cause := cause, pc := s.pc, word := word, info := info } }

/-- `raise Fault(cause, info)` in an instruction (R12): fault entry with the fetched word, which `opcode` holds while an
instruction executes (R94), so the step that fetched it has already written `opcode <- w` (R262). -/
def State.raise (s : State) (cause : Cause) (info : FaultInfo) : State := s.takeFault cause s.opcode info

/-- `FETCH_OOB` (R68): fault entry with word 0 and `info = pc`; nothing was fetched, so `opcode` is unchanged (R262). -/
def State.raiseFetch (s : State) : State := s.takeFault .fetchOob 0#16 (.value s.pc.toNat)

/-- `Publish(fb)` (R280): a copy of the framebuffer to the host. -/
def State.publish (s : State) : State := { s with outputs := s.outputs ++ [.publish s.fb] }

/-- `Initialize()` of R300, allowed in every run state, and the only return from a fatal fault (R263). Memory above the
font and the keys are not written; the random source has no modelled state, so `draws` goes on (log entry 4). -/
def State.initCore (s : State) : State :=
  State.publish
    { s with
      pc := 512#16
      opcode := 0#16
      I := 0#16
      sp := 0
      V := Vector.replicate 16 0#8
      stack := Vector.replicate 16 0#16
      fb := blankScreen
      M := s.M.writeBytes Config.fontBase font
      DT := 0#8
      ST := 0#8
      run := .running
      keyLatch := none
      fault := none
      advisory := []
      cycleCount := 0
      justInitialized := true }

/-! ### Unknown words -/

/-- `report Advisory(UNKNOWN_OPCODE, word, addr)`: one record at the end of the log (R41, R268). -/
def State.report (s : State) (word addr : Word) : State :=
  { s with advisory := s.advisory ++ [{ cause := .unknownOpcode, word := word, addr := addr }] }

end Sys2Proof.Machine
end

