-- ==== Sys2Proof/Machine/Operands.lean ====
section
/-! DEFINITION. The operand forms: registers and zero-extended immediates (R93), the shift source (R8, R179), the key
number of a key test (R230), and the effective addresses `I + k` with their bounds check (R71, R72). -/

namespace Sys2Proof.Machine

/-- `zext_16(nnn)`: an address operand as written to pc or I (R93). -/
def zextAddr (nnn : Addr12) : Word := nnn.setWidth 16

/-- `zext_16(v)`: a register value as added to pc or I (R93). -/
def zextByte (v : Byte) : Word := v.setWidth 16

/-- The value that 8xy6 and 8xyE shift: `V[x]` (`SHIFT_SOURCE = X`, R8, D7); the `y` field is decoded and not read. -/
def shiftOperand (x _y : Reg) (s : State) : Byte := s.reg x

/-- The key that Ex9E and ExA1 test: the value `V[x]`, and `none` where it is above 15 (R230, R231). -/
def keyOperand (x : Reg) (s : State) : Option Key :=
  if h : (s.reg x).toNat < 16 then some ⟨(s.reg x).toNat, h⟩ else none

/-- The effective address `I + k`, an exact sum (R72). -/
def effAddr (s : State) (k : Nat) : Nat := s.I.toNat + k

/-- Whether a data access of `n` bytes at `I` reaches an address above 4095; an access of no byte is not checked (R71,
R121). -/
def rangeOob (s : State) (n : Nat) : Bool := decide (0 < n) && decide (s.I.toNat + n - 1 > 4095)

/-- The first address in access order above 4095, `max(I, 4096)` (R71, R261). -/
def firstOob (s : State) : Nat := max s.I.toNat 4096

/-- The `n` bytes `M[I .. I + n - 1]` (R72). -/
def bytesAtI (s : State) (n : Nat) : List Byte := (List.range n).map (fun k => s.M.read (effAddr s k))

/-- Check the whole range of `n` bytes at `I` before anything is written: `MEM_OOB` (R71), else go on. -/
def withRange (n : Nat) (s : State) (go : State) : Host.Outcome State Fault Refusal :=
  if rangeOob s n then .next (s.raise .memOob (.value (firstOob s))) else .next go

end Sys2Proof.Machine
end

