-- ==== Sys2Proof/Machine/Flags.lean ====
section
/-! DEFINITION. The flag computations (R26): carry, the strict comparisons of SUB and SUBN, the bit shifted out; and the
write of a result and its flag, the flag last (R170). Collision is in Machine/Display.lean. -/

namespace Sys2Proof.Machine

/-- A flag as the value written to VF: 1 or 0 (R26). -/
def flagByte (b : Bool) : Byte := if b then 1#8 else 0#8

/-- Carry of 8xy4: the unsigned sum exceeds 255 (R177). -/
def carryOf (a b : Byte) : Bool := decide (a.toNat + b.toNat > 255)

/-- The flag of 8xy5: `a > b` strictly, as unsigned numbers; with the operands exchanged, the flag of 8xy7 (R178, R180). -/
def greaterThan (a b : Byte) : Bool := decide (a.toNat > b.toNat)

/-- The bit that 8xy6 shifts out, `a[0]` (R179). -/
def bitOutRight (a : Byte) : Bool := a.getLsbD 0

/-- The bit that 8xyE shifts out, `a[7]` (R181). -/
def bitOutLeft (a : Byte) : Bool := a.getLsbD 7

/-- Write the result to `V[x]` and then the flag to VF, so that the flag stays where x = 0xF, and advance (R170). -/
def State.finishFlagged (s : State) (x : Reg) (result : Byte) (flag : Bool) : State :=
  ((s.setReg x result).setReg VF (flagByte flag)).advance

end Sys2Proof.Machine
end

