-- ==== Sys2Proof/Machine/Alu.lean ====
section
/-! DEFINITION. Register and arithmetic instructions (42_alu.md). Operands are read before anything is written, and the flag
is written last (R170); arithmetic is unsigned and 8 bits wide (R182). -/

namespace Sys2Proof.Machine

/-- 6xnn (R171): `V[x] <- nn ; advance`. -/
def execLdImm (x : Reg) (nn : Byte) (s : State) : Host.Outcome State Fault Refusal :=
  .next (s.setReg x nn).advance

/-- 7xnn (R172): `V[x] <- (V[x] + nn) mod 256 ; advance`; VF is not written as a flag. -/
def execAddImm (x : Reg) (nn : Byte) (s : State) : Host.Outcome State Fault Refusal :=
  .next (s.setReg x (s.reg x + nn)).advance

/-- 8xy0 (R173): `V[x] <- V[y] ; advance`. -/
def execLdReg (x y : Reg) (s : State) : Host.Outcome State Fault Refusal :=
  .next (s.setReg x (s.reg y)).advance

/-- 8xy1 (R174): `V[x] <- V[x] OR V[y] ; advance`. -/
def execOr (x y : Reg) (s : State) : Host.Outcome State Fault Refusal :=
  .next (s.setReg x (s.reg x ||| s.reg y)).advance

/-- 8xy2 (R175): `V[x] <- V[x] AND V[y] ; advance`. -/
def execAnd (x y : Reg) (s : State) : Host.Outcome State Fault Refusal :=
  .next (s.setReg x (s.reg x &&& s.reg y)).advance

/-- 8xy3 (R176): `V[x] <- V[x] XOR V[y] ; advance`. -/
def execXor (x y : Reg) (s : State) : Host.Outcome State Fault Refusal :=
  .next (s.setReg x (s.reg x ^^^ s.reg y)).advance

/-- 8xy4 (R177): the sum modulo 256, VF = carry. -/
def execAddReg (x y : Reg) (s : State) : Host.Outcome State Fault Refusal :=
  .next (s.finishFlagged x (s.reg x + s.reg y) (carryOf (s.reg x) (s.reg y)))

/-- 8xy5 (R178): `V[x] - V[y]` modulo 256, VF = `V[x] > V[y]`. -/
def execSub (x y : Reg) (s : State) : Host.Outcome State Fault Refusal :=
  .next (s.finishFlagged x (s.reg x - s.reg y) (greaterThan (s.reg x) (s.reg y)))

/-- 8xy6 (R179): the operand shifted right by 1, VF = its bit 0. -/
def execShr (x y : Reg) (s : State) : Host.Outcome State Fault Refusal :=
  .next (s.finishFlagged x (shiftOperand x y s >>> 1) (bitOutRight (shiftOperand x y s)))

/-- 8xy7 (R180): `V[y] - V[x]` modulo 256, VF = `V[y] > V[x]`. -/
def execSubn (x y : Reg) (s : State) : Host.Outcome State Fault Refusal :=
  .next (s.finishFlagged x (s.reg y - s.reg x) (greaterThan (s.reg y) (s.reg x)))

/-- 8xyE (R181): the operand shifted left by 1 modulo 256, VF = its bit 7. -/
def execShl (x y : Reg) (s : State) : Host.Outcome State Fault Refusal :=
  .next (s.finishFlagged x (shiftOperand x y s <<< 1) (bitOutLeft (shiftOperand x y s)))

/-- Cxnn (R183): `V[x] <- r AND nn ; advance`, where `r` is the next draw, a free byte (log entry 4). -/
def execRnd (x : Reg) (nn : Byte) (s : State) : Host.Outcome State Fault Refusal :=
  .next { (s.setReg x (Config.randomByte s.draws &&& nn)).advance with draws := s.draws + 1 }

end Sys2Proof.Machine
end

