-- ==== Sys2Proof/Machine/Control.lean ====
section
/-! DEFINITION. Control-transfer instructions (41_control.md): return, jumps, call, and the register and immediate skips. -/

namespace Sys2Proof.Machine

/-- 00EE (R140): pop into pc, then advance by 2; `STACK_UNDERFLOW` where sp = 0. -/
def execRet (s : State) : Host.Outcome State Fault Refusal :=
  match s.pop with
  | some (ra, t) => .next { t with pc := ra + 2#16 }
  | none => .next (s.raise .stackUnderflow (.value 0))

/-- 1nnn (R141): `pc <- zext_16(nnn)`. -/
def execJp (nnn : Addr12) (s : State) : Host.Outcome State Fault Refusal :=
  .next { s with pc := zextAddr nnn }

/-- 2nnn (R142): push the pc of this instruction, then `pc <- zext_16(nnn)`; `STACK_OVERFLOW` where sp = 16. -/
def execCall (nnn : Addr12) (s : State) : Host.Outcome State Fault Refusal :=
  match s.push s.pc with
  | some t => .next { t with pc := zextAddr nnn }
  | none => .next (s.raise .stackOverflow (.value 16))

/-- 3xnn (R143): skip if V[x] = nn. -/
def execSeImm (x : Reg) (nn : Byte) (s : State) : Host.Outcome State Fault Refusal :=
  .next (s.skipIf (s.reg x == nn))

/-- 4xnn (R144): skip if V[x] ≠ nn. -/
def execSneImm (x : Reg) (nn : Byte) (s : State) : Host.Outcome State Fault Refusal :=
  .next (s.skipIf (s.reg x != nn))

/-- 5xy0 (R145): skip if V[x] = V[y]. -/
def execSeReg (x y : Reg) (s : State) : Host.Outcome State Fault Refusal :=
  .next (s.skipIf (s.reg x == s.reg y))

/-- 9xy0 (R146): skip if V[x] ≠ V[y]. -/
def execSneReg (x y : Reg) (s : State) : Host.Outcome State Fault Refusal :=
  .next (s.skipIf (s.reg x != s.reg y))

/-- Bnnn (R147): `pc <- zext_16(nnn) + zext_16(V[0])`. -/
def execJpV0 (nnn : Addr12) (s : State) : Host.Outcome State Fault Refusal :=
  .next { s with pc := zextAddr nnn + zextByte (s.reg 0) }

end Sys2Proof.Machine
end

