-- ==== Sys2Proof/Machine/Display.lean ====
section
/-! DEFINITION. Display instructions (40_display.md): 00E0 and Dxyn. -/

namespace Sys2Proof.Machine

/-- 00E0 (R120): every cell 0, then advance; it does not publish. -/
def execCls (s : State) : Host.Outcome State Fault Refusal :=
  .next { s with fb := blankScreen }.advance

/-- The columns 0..7 at which a sprite byte has a set bit, column `c` being bit `7 - c`: "most-significant bit first"
(R121, R122). -/
def setColumns (b : Byte) : List Nat := (List.range 8).filter (fun c => b.getLsbD (7 - c))

/-- The set bits of sprite rows in the spec's order, rows outer and columns inner, each as its screen column and row: exact
sums, not reduced modulo 64 or 32 (R122). `py` is the screen row of the first of the rows. -/
def setPixels (px : Nat) : Nat → List Byte → List (Nat × Nat)
  | _, [] => []
  | py, b :: rows => (setColumns b).map (fun c => (px + c, py)) ++ setPixels px (py + 1) rows

/-- A pixel outside the 64×32 grid (R124, `DRAW_EDGE = fault` of R8). -/
def offGrid (p : Nat × Nat) : Bool := decide (p.1 > 63) || decide (p.2 > 31)

/-- The cell of a pixel (R122). -/
def cellOf (p : Nat × Nat) : Nat := p.2 * 64 + p.1

/-- XOR one set sprite bit into the framebuffer, noting a collision with a lit pixel (R121, R123). -/
def drawPixel (acc : Framebuffer × Bool) (p : Nat × Nat) : Framebuffer × Bool :=
  (acc.1.flip (cellOf p), acc.2 || acc.1.cell (cellOf p))

/-- XOR all the set bits of a sprite, starting with no collision (R121). -/
def drawPixels (fb : Framebuffer) (ps : List (Nat × Nat)) : Framebuffer × Bool := ps.foldl drawPixel (fb, false)

/-- The set bits of the sprite that Dxyn draws: n bytes at I, at column V[x] and row V[y] (R121). -/
def spriteOf (x y : Reg) (n : Nat) (s : State) : List (Nat × Nat) :=
  setPixels (s.reg x).toNat (s.reg y).toNat (bytesAtI s n)

/-- Write a drawn frame and its collision flag, publish it, and advance (R121, R125). -/
def finishDraw (s : State) (drawn : Framebuffer × Bool) : State :=
  (({ s with fb := drawn.1 }.setReg VF (flagByte drawn.2)).publish).advance

/-- Dxyn (R121): `MEM_OOB` where the sprite rows reach past 4095, then `DRAW_OOB` where a set bit lies outside the grid
(R264), with the first one as `info` (R124); else the draw. -/
def execDrw (x y : Reg) (n : Nat) (s : State) : Host.Outcome State Fault Refusal :=
  withRange n s
    (match (spriteOf x y n s).find? offGrid with
      | some p => s.raise .drawOob (.pixel p.1 p.2)
      | none => finishDraw s (drawPixels s.fb (spriteOf x y n s)))

end Sys2Proof.Machine
end

