-- ==== Sys2Proof/Machine/IndexMemory.lean ====
section
/-! DEFINITION. Index-register and memory instructions (43_index_memory.md). I is written by the first three only; the data
accesses check their whole range before they write (R71). -/

namespace Sys2Proof.Machine

/-- Annn (R200): `I <- zext_16(nnn) ; advance`. -/
def execLdI (nnn : Addr12) (s : State) : Host.Outcome State Fault Refusal :=
  .next { s with I := zextAddr nnn }.advance

/-- Fx1E (R201): `I <- (I + zext_16(V[x])) mod 2^16 ; advance`; no flag. -/
def execAddI (x : Reg) (s : State) : Host.Outcome State Fault Refusal :=
  .next { s with I := s.I + zextByte (s.reg x) }.advance

/-- Fx29 (R202): `I <- zext_16(V[x]) * 5 ; advance`; the whole register, not its low nibble. -/
def execLdF (x : Reg) (s : State) : Host.Outcome State Fault Refusal :=
  .next { s with I := zextByte (s.reg x) * 5#16 }.advance

/-- The decimal digits of a byte, hundreds, tens, ones (R203). -/
def bcdDigits (v : Byte) : List Byte :=
  [BitVec.ofNat 8 (v.toNat / 100), BitVec.ofNat 8 (v.toNat / 10 % 10), BitVec.ofNat 8 (v.toNat % 10)]

/-- Fx33 (R203): the BCD digits of V[x] at I, I+1, I+2; `MEM_OOB` where I + 2 > 4095. -/
def execLdB (x : Reg) (s : State) : Host.Outcome State Fault Refusal :=
  withRange 3 s { s with M := s.M.writeBytes (effAddr s 0) (bcdDigits (s.reg x)) }.advance

/-- The registers V[0..x], in order (R204). -/
def regsUpTo (s : State) (x : Reg) : List Byte := s.V.toList.take (x.val + 1)

/-- Fx55 (R204): store V[0..x] at I..I+x; `MEM_OOB` where I + x > 4095; I is not written. -/
def execLdMemV (x : Reg) (s : State) : Host.Outcome State Fault Refusal :=
  withRange (x.val + 1) s { s with M := s.M.writeBytes (effAddr s 0) (regsUpTo s x) }.advance

/-- `V[i] <- M[I + i]` for i in 0..x (R205). -/
def loadUpTo (s : State) (x : Reg) : Vector Byte 16 :=
  Vector.ofFn (fun i : Fin 16 => if i ≤ x then s.M.read (effAddr s i.val) else s.reg i)

/-- Fx65 (R205): load V[0..x] from I..I+x; `MEM_OOB` where I + x > 4095; I is not written. -/
def execLdVMem (x : Reg) (s : State) : Host.Outcome State Fault Refusal :=
  withRange (x.val + 1) s { s with V := loadUpTo s x }.advance

end Sys2Proof.Machine
end

