-- ==== Sys2Proof/Machine/KeysTimers.lean ====
section
/-! DEFINITION. Keypad and timer instructions (44_keys_timers.md), with the completion of the key wait (R236). -/

namespace Sys2Proof.Machine

/-- Ex9E (R230): skip if key V[x] is pressed; `KEY_OOB` where V[x] > 15. -/
def execSkp (x : Reg) (s : State) : Host.Outcome State Fault Refusal :=
  match keyOperand x s with
  | some k => .next (s.skipIf s.keys[k])
  | none => .next (s.raise .keyOob (.value (s.reg x).toNat))

/-- ExA1 (R231): skip if key V[x] is not pressed; `KEY_OOB` where V[x] > 15. -/
def execSknp (x : Reg) (s : State) : Host.Outcome State Fault Refusal :=
  match keyOperand x s with
  | some k => .next (s.skipIf (!s.keys[k]))
  | none => .next (s.raise .keyOob (.value (s.reg x).toNat))

/-- Fx07 (R232): `V[x] <- DT ; advance`. -/
def execLdVDT (x : Reg) (s : State) : Host.Outcome State Fault Refusal :=
  .next (s.setReg x s.DT).advance

/-- Fx15 (R233): `DT <- V[x] ; advance`. -/
def execLdDTV (x : Reg) (s : State) : Host.Outcome State Fault Refusal :=
  .next { s with DT := s.reg x }.advance

/-- Fx18 (R234): `ST <- V[x] ; advance`. -/
def execLdSTV (x : Reg) (s : State) : Host.Outcome State Fault Refusal :=
  .next { s with ST := s.reg x }.advance

/-- Fx0A, entry (R235): wait for a press that comes after it; pc still holds this Fx0A. -/
def execLdVK (x : Reg) (s : State) : Host.Outcome State Fault Refusal :=
  .next { s with run := .awaitingKey x, keyLatch := none }

/-- Fx0A, completion with the latched key (R236); nothing is fetched, and the step counts as a cycle. -/
def completeKeyWait (x : Reg) (k : Key) (s : State) : State :=
  let t := (s.setReg x (BitVec.ofNat 8 k.val)).advance
  { t with keyLatch := none, run := .running, cycleCount := s.cycleCount + 1 }

end Sys2Proof.Machine
end

