-- ==== Sys2Proof/Machine/HostPort.lean ====
section
/-! DEFINITION. The steps of the timer and of the host (R275, R282, R283, R303), and what the host reads: the tone output,
the debug snapshot and a fault's code (R279, R286, R261). -/

namespace Sys2Proof.Machine

/-- A timer's countdown: one less, never below 0 (R275). -/
def countDown (t : Byte) : Byte := if t = 0#8 then 0#8 else t - 1#8

/-- `TimerTick` (R275): one step counts both timers down, in every run state. -/
def State.timerTick (s : State) : State := { s with DT := countDown s.DT, ST := countDown s.ST }

/-- `Press(k)` (R282): a transition to pressed sets the key, and the latch if the CPU is waiting and the latch is empty; a key
already pressed makes no transition. -/
def State.press (s : State) (k : Key) : State :=
  if s.keys[k] then s
  else
    match s.run, s.keyLatch with
    | .awaitingKey _, none => { s with keys := s.keys.set k true, keyLatch := some k }
    | _, _ => { s with keys := s.keys.set k true }

/-- `Release(k)` (R283): the key only; a latched key stays latched. -/
def State.release (s : State) (k : Key) : State := { s with keys := s.keys.set k false }

/-- `LoadProgram(rom)` (R303): the ROM at 512; a ROM longer than 3584 bytes fails with `CapacityExceeded`, which is handed to
the host, and changes nothing (R304). -/
def State.loadProgram (s : State) (rom : List Byte) : State :=
  if rom.length > Config.maxRom then { s with outputs := s.outputs ++ [.capacityExceeded] }
  else { s with M := s.M.writeBytes Config.progBase rom }

/-- The derived output `tone = (ST ≠ 0)` (R279). -/
def State.tone (s : State) : Bool := s.ST != 0#8

/-- The code of a fatal fault (R261). -/
def Cause.code : Cause → Nat
  | .fetchOob => 1
  | .stackOverflow => 2
  | .stackUnderflow => 3
  | .memOob => 4
  | .drawOob => 5
  | .keyOob => 6

/-- The code a host reads from a fault record; code 0 means no fault (R261). -/
def State.faultCode (s : State) : Nat :=
  match s.fault with
  | none => 0
  | some r => r.cause.code

/-- The debug snapshot (R286). -/
structure Snapshot where
  opcode : Word
  I : Word
  pc : Word
  cycleCount : Nat
  sp : Fin 17
  stack : Vector Word 16
  V : Vector Byte 16
  deriving DecidableEq, Repr

/-- Taking the debug snapshot: stale stack entries included (R286). -/
def State.debugSnapshot (s : State) : Snapshot :=
  { opcode := s.opcode, I := s.I, pc := s.pc, cycleCount := s.cycleCount, sp := s.sp, stack := s.stack, V := s.V }

end Sys2Proof.Machine
end

