-- ==== Sys2Proof/Machine/Cycle.lean ====
section
/-! DEFINITION. The CPU's step (R94, R236) and the turn of each agent (R7, R81, R288). -/

namespace Sys2Proof.Machine

/-- The end of a CPU step (R94): `cycle_count` counts it, unless it took a fatal fault (R262). -/
def State.retire (t : State) : State := if t.run = .faulted then t else { t with cycleCount := t.cycleCount + 1 }

/-- What the cycle adds around an instruction's own outcome: a next state is retired. -/
def retireOutcome : Host.Outcome State Fault Refusal → Host.Outcome State Fault Refusal
  | .next t => .next t.retire
  | .fault r => .fault r
  | .refused r => .refused r

/-- `CpuStep_Running` of R94: fetch, `opcode <- w`, decode, then the advisory path of an unknown word or the instruction. -/
def cpuRunning (s : State) : Host.Outcome State Fault Refusal :=
  match s.fetch with
  | none => .next s.raiseFetch
  | some w =>
    match decodeWord w with
    | none => .next (State.retire ({ s with opcode := w }.report w s.pc).advance)
    | some i => retireOutcome (exec i { s with opcode := w })

/-- The CPU's turn by run state (R38): an instruction; the completion of a key wait, or nothing while the wait is held (log
entry 6); no step in `Faulted`, where the machine stops with the fault's record (log entry 7). -/
def cpuStep (s : State) : Host.Outcome State Fault Refusal :=
  match s.run with
  | .running => cpuRunning s
  | .awaitingKey x =>
    match s.keyLatch with
    | some k => .next (completeKeyWait x k s)
    | none => .next s
  | .faulted => .fault (.cpuFaulted s.fault)

/-- A step after which a LoadProgram no longer follows an Initialize directly (R306). -/
def State.leaveInit (s : State) : State := { s with justInitialized := false }

/-- One agent's step (R288). LoadProgram is issued only directly after Initialize (R306, log entry 8): every other step, a load
that fails among them, is one after which it no longer is. -/
def turn (e : Event) (s : State) : Host.Outcome State Fault Refusal :=
  match e with
  | .cpu => cpuStep s.leaveInit
  | .tick => .next s.leaveInit.timerTick
  | .init => .next s.initCore
  | .load rom => if s.justInitialized then .next (s.leaveInit.loadProgram rom) else .refused .loadNotAfterInitialize
  | .press k => .next (s.leaveInit.press k)
  | .release k => .next (s.leaveInit.release k)

/-- Whose turn is next, and the agenda after it: the head of the agenda, or the CPU when it is empty (log entry 5). -/
def State.nextTurn (s : State) : Event × List Event :=
  match s.agenda with
  | [] => (.cpu, [])
  | e :: rest => (e, rest)

/-- Store the word of an instruction where the next step fetches and give the CPU that step: `Running`, an empty agenda, and
pc as it is unless no instruction can be fetched there, and then 512. -/
def State.placeWord (s : State) (w : Word) : State :=
  let pc := if s.pc.toNat > 4094 then 512#16 else s.pc
  { s with
    pc := pc
    run := .running
    agenda := []
    M := s.M.writeBytes pc.toNat [hiByte w, loByte w] }

end Sys2Proof.Machine
end

