-- ==== Sys2Proof/Machine/Step.lean ====
section
/-! DEFINITION. One step of the machine: the next agent of the agenda takes its turn (R7, R81). -/

namespace Sys2Proof.Machine

/-- One atomic step of one agent (R81). -/
def step (s : State) : Host.Outcome State Fault Refusal :=
  turn s.nextTurn.1 { s with agenda := s.nextTurn.2 }

/-- `s` with the word numbered as spec/opcode_table.json numbers it stored where the next step fetches (log entry 11). -/
def State.withFetchWord (s : State) (nbits w : Nat) : State := s.placeWord (tableWord nbits w)

end Sys2Proof.Machine
end

