-- ==== Sys2Proof/Safety.lean ====
section
/-! DEFINITION. The terms in which claims speak of good states and good runs: no fault recorded, an empty advisory log, a
halted program, the invariant of the machine, what a program cannot see, and the runs that R276 admits. -/

namespace Sys2Proof.Machine

/-- The premise of claims about programs: no fatal fault is recorded and the advisory log is empty (R262, R268). -/
def State.Clean (s : State) : Prop := s.run ≠ .faulted ∧ s.fault = none ∧ s.advisory = []

/-- A halted state, the spin halt of R313: running, no fault, and the word at pc is a jump to pc itself. -/
def State.Halted (s : State) : Prop :=
  s.run = .running ∧ s.fault = none ∧
    ∃ w nnn, s.fetch = some w ∧ decodeWord w = some (.jp nnn) ∧ nnn.toNat = s.pc.toNat

/-- It is the CPU's turn, and `rest` is the agenda after it. -/
def State.CpuTurn (s : State) (rest : List Event) : Prop := s.nextTurn = (.cpu, rest)

/-- The state in which an instruction executes in a CPU step: `opcode` holds the fetched word (R94), the agenda is past this
turn, and an Initialize is no longer the last step. -/
def State.fetched (s : State) (w : Word) (rest : List Event) : State :=
  { s with opcode := w, agenda := rest, justInitialized := false }

/-- What every state a run from reset can reach satisfies, whatever the agents do: memory is in canonical form; pc is at most
0x10FE, and at most 4094 while a key wait holds it at its Fx0A (R29); every stack entry is the address of a call that was
fetched; a fault is recorded exactly in `Faulted` (R40); the latch holds a key only during a wait (R39). -/
structure State.Inv (s : State) : Prop where
  memory : s.M.wf = true
  pcBound : s.pc.toNat ≤ 0x10FE
  waitAtFetched : ∀ x, s.run = .awaitingKey x → s.pc.toNat ≤ 4094
  stackBound : ∀ j : Fin 16, s.stack[j].toNat ≤ 4094
  faultRecorded : s.run = .faulted ↔ s.fault.isSome = true
  latchInWait : s.keyLatch.isSome = true → ∃ x, s.run = .awaitingKey x

/-- The state with everything hidden from a program erased (R47): `opcode`, `cycle_count`, the advisory log, the outputs, the
sound timer, which no instruction reads (R35), and the stale stack entries from sp up. -/
def State.visible (s : State) : State :=
  { s with
    opcode := 0#16
    cycleCount := 0
    advisory := []
    outputs := []
    ST := 0#8
    stack := Vector.ofFn (fun j : Fin 16 => if j.val < s.sp.val then s.stack[j] else 0#16) }

/-- The set sprite bits of Dxyn, read off the registers and memory: whether pixel `(col, row)` is covered by a set bit of the
n rows at I, drawn with its top left corner at column V[x] and row V[y] (R121, R122). -/
def SpriteCovers (s : State) (x y : Reg) (n col row : Nat) : Prop :=
  s.V[y].toNat ≤ row ∧ row < s.V[y].toNat + n ∧ s.V[x].toNat ≤ col ∧ col < s.V[x].toNat + 8 ∧
    (s.M.read (s.I.toNat + (row - s.V[y].toNat))).getLsbD (7 - (col - s.V[x].toNat)) = true

/-- A fatal fault taken by an instruction that executes in `s`: only `run` and `fault` are written (R262). -/
def Faults (s : State) (cause : Cause) (info : FaultInfo) (o : Host.Outcome State Fault Refusal) : Prop :=
  o = .next { s with
    run := .faulted, fault := some { cause := cause, pc := s.pc, word := s.opcode, info := info } }

/-- The registers an instruction may write, from the table of R23: `V[x]`, `V[0..x]`, and VF as a side effect. (Fx0A writes
its register at completion, which is no instruction's execution.) -/
def writesReg : Instr → Reg → Prop
  | .ldImm x _, r | .addImm x _, r | .ldReg x _, r | .or x _, r | .and x _, r | .xor x _, r | .rnd x _, r
  | .ldVDT x, r => r = x
  | .addReg x _, r | .sub x _, r | .shr x _, r | .subn x _, r | .shl x _, r => r = x ∨ r = 15
  | .drw _ _ _, r => r = 15
  | .ldVMem x, r => r ≤ x
  | .cls, _ | .ret, _ | .jp _, _ | .call _, _ | .seImm _ _, _ | .sneImm _ _, _ | .seReg _ _, _ | .sneReg _ _, _ | .ldI _, _
  | .jpV0 _, _ | .skp _, _ | .sknp _, _ | .ldVK _, _ | .ldDTV _, _ | .ldSTV _, _ | .addI _, _ | .ldF _, _ | .ldB _, _
  | .ldMemV _, _ => False

/-- `r` is a run in which agent `e k` takes step `k` (R81). -/
def IsRun (r : Nat → State) (e : Nat → Event) : Prop :=
  ∀ k, turn (e k) (r k) = .next (r (k + 1))

/-- Weak fairness of the timer (R276): "a run in which DT or ST stays nonzero forever while the timer agent takes no step is
not admitted". -/
def TimerFair (r : Nat → State) (e : Nat → Event) : Prop :=
  ¬ ∃ k, ∀ m, k ≤ m → ((r m).DT ≠ 0#8 ∨ (r m).ST ≠ 0#8) ∧ e m ≠ .tick

end Sys2Proof.Machine
end

