-- ==== Sys2Proof/Certificates/Slice0/Obligations.lean ====
section
/-! DEFINITION. The statements for the provers. Each names the rule of spec/ it comes from; where a rule rests on one of the
spec's own decisions (D<n> of 92_eei_decisions.md) or on a log entry of the model, the docstring says so. A statement of an
instruction says three things: the words that decode to it (as the bit pattern of R96), its next state, and so, the next
state being written as an update of the state before, its frame. -/

open Sys2Proof Sys2Proof.Machine

/-! ### Encoding -/

/-- Decoding the word of a well-formed instruction gives the instruction back (R92, R96, R98; the map is the spec's D3). -/
def Obligations.DecodeOfEncode : Prop :=
  ∀ i : Instr, i.wf = true → decodeWord (encode i) = some i

/-- A word that decodes is the word of the instruction it decodes to: decoding is strict, and no bit is dropped (R98; D3,
D4). -/
def Obligations.EncodeOfDecode : Prop :=
  ∀ (w : Word) (i : Instr), decodeWord w = some i → i.wf = true ∧ encode i = w

/-- The unknown words are exactly the six classes of R97's list (D4). -/
def Obligations.UnknownWordsAreThoseListed : Prop :=
  ∀ w : Word, decodeWord w = none ↔
    let f := w.toNat / 4096
    let g := w.toNat % 16
    let gg := w.toNat % 256
    (f = 0 ∧ w.toNat ≠ 0x0E0 ∧ w.toNat ≠ 0x0EE) ∨ (f = 5 ∧ g ≠ 0) ∨ (f = 8 ∧ g ∈ [8, 9, 10, 11, 12, 13, 15]) ∨
    (f = 9 ∧ g ≠ 0) ∨ (f = 14 ∧ gg ∉ [0x9E, 0xA1]) ∨
    (f = 15 ∧ gg ∉ [0x07, 0x0A, 0x15, 0x18, 0x1E, 0x29, 0x33, 0x55, 0x65])

/-- The example words of R102, with the effects it gives them. -/
def Obligations.SourceExampleWords : Prop :=
  decodeWord 0x124E#16 = some (.jp 0x24E#12) ∧ decodeWord 0x6801#16 = some (.ldImm 8 0x01#8) ∧
  decodeWord 0xA2F0#16 = some (.ldI 0x2F0#12) ∧
  ∀ s : State, exec (.jp 0x24E#12) s = .next { s with pc := 0x024E#16 } ∧
    exec (.ldImm 8 0x01#8) s = .next { s with V := s.V.set 8 0x01#8, pc := s.pc + 2#16 }

/-- One word of each of the 16 families (leading nibbles 0 to F, R13, R91), written out from its pattern, decodes to its
instruction (R96; D3); and 0x5121, whose function nibble is not 0, is unknown (R97; D4). -/
def Obligations.SampleWordsDecode : Prop :=
  (decodeWord 0x00EE#16 = some .ret ∧ decodeWord 0x124E#16 = some (.jp 0x24E#12) ∧
    decodeWord 0x2300#16 = some (.call 0x300#12) ∧ decodeWord 0x3310#16 = some (.seImm 3 0x10#8) ∧
    decodeWord 0x4311#16 = some (.sneImm 3 0x11#8) ∧ decodeWord 0x5120#16 = some (.seReg 1 2) ∧
    decodeWord 0x6801#16 = some (.ldImm 8 0x01#8) ∧ decodeWord 0x7AFF#16 = some (.addImm 10 0xFF#8) ∧
    decodeWord 0x8126#16 = some (.shr 1 2) ∧ decodeWord 0x9120#16 = some (.sneReg 1 2) ∧
    decodeWord 0xA2F0#16 = some (.ldI 0x2F0#12) ∧ decodeWord 0xB300#16 = some (.jpV0 0x300#12) ∧
    decodeWord 0xC30F#16 = some (.rnd 3 0x0F#8) ∧ decodeWord 0xD015#16 = some (.drw 0 1 5) ∧
    decodeWord 0xE1A1#16 = some (.sknp 1) ∧ decodeWord 0xF533#16 = some (.ldB 5)) ∧
  decodeWord 0x5121#16 = none

/-! ### The cycle -/

/-- The fetch of R67: the big-endian word at pc where pc ≤ 4094, at any alignment; above that the CPU's step is the fatal
fault `FETCH_OOB` with info pc (entry as R262 says; the agenda and `justInitialized` are the model's own, log entries 5 and
8). -/
def Obligations.FetchIsBigEndianAndBounded : Prop :=
  ∀ s : State,
    (s.pc.toNat ≤ 4094 → ∃ w, s.fetch = some w ∧
      w.toNat = (s.M.read s.pc.toNat).toNat * 256 + (s.M.read (s.pc.toNat + 1)).toNat) ∧
    (s.pc.toNat > 4094 → s.fetch = none ∧ ∀ rest, s.CpuTurn rest → s.run = .running →
      step s = .next { s with
        run := .faulted
        fault := some { cause := .fetchOob, pc := s.pc, word := 0#16, info := .value s.pc.toNat }
        agenda := rest
        justInitialized := false })

/-- A step runs the decoded instruction (R94; D10, D28): on the CPU's turn, running, the step is `exec` of the instruction at
pc in the state whose `opcode` holds the fetched word, and a next state without a fault counts one cycle. (`exec` always
answers a next state: `EveryInstructionAnswersNext`.) (Whose turn it is: the model's agenda, log entry 5.) -/
def Obligations.StepRunsDecodedInstruction : Prop :=
  ∀ (s t : State) (rest : List Event) (w : Word) (i : Instr),
    s.CpuTurn rest → s.run = .running → s.fetch = some w → decodeWord w = some i → exec i (s.fetched w rest) = .next t →
    step s = .next { t with cycleCount := if t.run = .faulted then t.cycleCount else t.cycleCount + 1 }

/-- An unknown word is logged and skipped, with no other effect (R97, R268; D4, D5). (The agenda and `justInitialized` are
the model's own, log entries 5 and 8.) -/
def Obligations.UnknownWordIsLoggedAndSkipped : Prop :=
  ∀ (s : State) (rest : List Event) (w : Word),
    s.CpuTurn rest → s.run = .running → s.fetch = some w → decodeWord w = none →
    step s = .next { s with
      opcode := w
      advisory := s.advisory ++ [{ cause := .unknownOpcode, word := w, addr := s.pc }]
      pc := s.pc + 2#16
      cycleCount := s.cycleCount + 1
      agenda := rest
      justInitialized := false }

/-- No instruction stops the model, and none changes what only the host, the fetch or the cycle writes: the keys (R37), the
advisory log (R41), `opcode` (R42), `cycle_count` (R43), and the model's own agenda and `justInitialized` (log entries 5 and
8). -/
def Obligations.EveryInstructionAnswersNext : Prop :=
  ∀ (i : Instr) (s : State), ∃ t, exec i s = .next t ∧ t.keys = s.keys ∧ t.advisory = s.advisory ∧ t.opcode = s.opcode ∧
    t.cycleCount = s.cycleCount ∧ t.agenda = s.agenda ∧ t.justInitialized = s.justInitialized

/-- `cycle_count` counts exactly the CPU steps completed without a fatal fault (R43; D28): an instruction, an unknown word,
the entry and the completion of a key wait; not a fault, not a held wait, and no step of the timer or the host but
Initialize, which clears it. (Whose turn it is: the model's agenda, log entry 5.) -/
def Obligations.CycleCountCountsCompletedCpuSteps : Prop :=
  ∀ s t : State, step s = .next t →
    (∀ rest, s.CpuTurn rest → s.run = .running →
      t.cycleCount = if t.run = .faulted then s.cycleCount else s.cycleCount + 1) ∧
    (∀ rest x, s.CpuTurn rest → s.run = .awaitingKey x →
      t.cycleCount = if s.keyLatch = none then s.cycleCount else s.cycleCount + 1) ∧
    (∀ e rest, s.agenda = e :: rest → e ≠ .cpu → t.cycleCount = if e = .init then 0 else s.cycleCount)

/-! ### Control transfer -/

/-- 1nnn (R141): pc is the target, and nothing else changes; at a target above 4094 the next fetch faults. -/
def Obligations.JumpSetsPc : Prop :=
  ∀ nnn : Addr12, decodeWord (0x1#4 ++ nnn) = some (.jp nnn) ∧
    ∀ s : State, exec (.jp nnn) s = .next { s with pc := nnn.setWidth 16 } ∧
      (nnn.toNat > 4094 → State.fetch { s with pc := nnn.setWidth 16 } = none)

/-- Bnnn (R147): pc is the exact sum of `nnn` and V0, and nothing else changes; at a sum above 4094 the next fetch faults. -/
def Obligations.JumpWithOffsetAddsV0 : Prop :=
  ∀ nnn : Addr12, decodeWord (0xB#4 ++ nnn) = some (.jpV0 nnn) ∧
    ∀ s : State, ∃ t, exec (.jpV0 nnn) s = .next t ∧ t.pc.toNat = nnn.toNat + s.V[0].toNat ∧
      { t with pc := s.pc } = s ∧ (nnn.toNat + s.V[0].toNat > 4094 → t.fetch = none)

/-- 2nnn (R142; D9, D10): with a free entry the pc of the call is pushed and pc is the target; with 16 live entries
`STACK_OVERFLOW`. -/
def Obligations.CallPushesItsAddress : Prop :=
  ∀ nnn : Addr12, decodeWord (0x2#4 ++ nnn) = some (.call nnn) ∧
    ∀ s : State,
      (s.sp.val < 16 → ∃ t, exec (.call nnn) s = .next t ∧ t.pc = nnn.setWidth 16 ∧ t.sp.val = s.sp.val + 1 ∧
        (∀ j : Fin 16, t.stack[j] = if j.val = s.sp.val then s.pc else s.stack[j]) ∧
        { t with pc := s.pc, sp := s.sp, stack := s.stack } = s) ∧
      (s.sp.val = 16 → Faults s .stackOverflow (.value 16) (exec (.call nnn) s))

/-- 00EE (R140; D9, D10): pc is the popped entry plus 2, modulo 2^16, and the entry keeps its value; with no live entry
`STACK_UNDERFLOW`. -/
def Obligations.ReturnPopsAndAdvances : Prop :=
  decodeWord 0x00EE#16 = some .ret ∧
    ∀ s : State,
      (∀ j : Fin 16, s.sp.val = j.val + 1 →
        exec .ret s = .next { s with pc := s.stack[j] + 2#16, sp := j.castSucc }) ∧
      (s.sp.val = 0 → Faults s .stackUnderflow (.value 0) (exec .ret s))

/-- The round trip of S6 and R33, over any subroutine: from a state with the call's stack pointer and live entries, a return
resumes after the call with the pointer and the live entries the caller had. -/
def Obligations.ReturnResumesAfterCall : Prop :=
  ∀ (nnn : Addr12) (s t u : State), s.sp.val < 16 → exec (.call nnn) s = .next t →
    u.sp = t.sp → (∀ j : Fin 16, j.val < t.sp.val → u.stack[j] = t.stack[j]) →
    exec .ret u = .next { u with pc := s.pc + 2#16, sp := s.sp } ∧
      ∀ j : Fin 16, j.val < s.sp.val → u.stack[j] = s.stack[j]

/-- 3xnn and 4xnn (R143, R144): pc advances by 4 where the condition holds and by 2 otherwise, and nothing else changes;
after a skip from 4092 or above the next fetch faults. -/
def Obligations.ImmediateSkips : Prop :=
  ∀ (x : Reg) (nn : Byte),
    decodeWord (0x3#4 ++ BitVec.ofNat 4 x.val ++ nn) = some (.seImm x nn) ∧
    decodeWord (0x4#4 ++ BitVec.ofNat 4 x.val ++ nn) = some (.sneImm x nn) ∧
    ∀ s : State,
      exec (.seImm x nn) s = .next { s with pc := s.pc + if s.V[x].toNat = nn.toNat then 4#16 else 2#16 } ∧
      exec (.sneImm x nn) s = .next { s with pc := s.pc + if s.V[x].toNat ≠ nn.toNat then 4#16 else 2#16 } ∧
      (4092 ≤ s.pc.toNat → s.pc.toNat ≤ 4094 → State.fetch { s with pc := s.pc + 4#16 } = none)

/-- 5xy0 and 9xy0 (R145, R146; D4 for the function nibble 0). -/
def Obligations.RegisterSkips : Prop :=
  ∀ x y : Reg,
    decodeWord (0x5#4 ++ BitVec.ofNat 4 x.val ++ BitVec.ofNat 4 y.val ++ 0x0#4) = some (.seReg x y) ∧
    decodeWord (0x9#4 ++ BitVec.ofNat 4 x.val ++ BitVec.ofNat 4 y.val ++ 0x0#4) = some (.sneReg x y) ∧
    ∀ s : State,
      exec (.seReg x y) s = .next { s with pc := s.pc + if s.V[x].toNat = s.V[y].toNat then 4#16 else 2#16 } ∧
      exec (.sneReg x y) s = .next { s with pc := s.pc + if s.V[x].toNat ≠ s.V[y].toNat then 4#16 else 2#16 }

/-! ### Registers and arithmetic -/

/-- 6xnn and 7xnn (R171, R172): the immediate, or the sum modulo 256 with no flag; VF changes only as the destination. -/
def Obligations.LoadAndAddImmediate : Prop :=
  ∀ (x : Reg) (nn : Byte),
    decodeWord (0x6#4 ++ BitVec.ofNat 4 x.val ++ nn) = some (.ldImm x nn) ∧
    decodeWord (0x7#4 ++ BitVec.ofNat 4 x.val ++ nn) = some (.addImm x nn) ∧
    ∀ s : State,
      exec (.ldImm x nn) s = .next { s with V := s.V.set x nn, pc := s.pc + 2#16 } ∧
      exec (.addImm x nn) s = .next { s with
        V := s.V.set x (BitVec.ofNat 8 ((s.V[x].toNat + nn.toNat) % 256)), pc := s.pc + 2#16 }

/-- 8xy0 to 8xy3 (R173 to R176; D8 for VF, which changes only as the destination). -/
def Obligations.CopyAndLogic : Prop :=
  ∀ x y : Reg,
    let word := fun g : BitVec 4 => (0x8#4 ++ BitVec.ofNat 4 x.val ++ BitVec.ofNat 4 y.val ++ g : Word)
    decodeWord (word 0) = some (.ldReg x y) ∧ decodeWord (word 1) = some (.or x y) ∧
    decodeWord (word 2) = some (.and x y) ∧ decodeWord (word 3) = some (.xor x y) ∧
    ∀ s : State,
      exec (.ldReg x y) s = .next { s with V := s.V.set x s.V[y], pc := s.pc + 2#16 } ∧
      exec (.or x y) s = .next { s with V := s.V.set x (s.V[x] ||| s.V[y]), pc := s.pc + 2#16 } ∧
      exec (.and x y) s = .next { s with V := s.V.set x (s.V[x] &&& s.V[y]), pc := s.pc + 2#16 } ∧
      exec (.xor x y) s = .next { s with V := s.V.set x (s.V[x] ^^^ s.V[y]), pc := s.pc + 2#16 }

/-- 8xy4, 8xy5 and 8xy7 (R177, R178, R180, R182; D6 for the order): the result modulo 256 in V[x], and over it VF = the
carry, or the strict comparison, computed from the values before the instruction. -/
def Obligations.AddAndSubtract : Prop :=
  ∀ x y : Reg,
    let word := fun g : BitVec 4 => (0x8#4 ++ BitVec.ofNat 4 x.val ++ BitVec.ofNat 4 y.val ++ g : Word)
    decodeWord (word 4) = some (.addReg x y) ∧ decodeWord (word 5) = some (.sub x y) ∧
    decodeWord (word 7) = some (.subn x y) ∧
    ∀ s : State,
      let a := s.V[x].toNat
      let b := s.V[y].toNat
      exec (.addReg x y) s = .next { s with
        V := (s.V.set x (BitVec.ofNat 8 ((a + b) % 256))).set 15 (if a + b > 255 then 1#8 else 0#8), pc := s.pc + 2#16 } ∧
      exec (.sub x y) s = .next { s with
        V := (s.V.set x (BitVec.ofNat 8 ((256 + a - b) % 256))).set 15 (if a > b then 1#8 else 0#8), pc := s.pc + 2#16 } ∧
      exec (.subn x y) s = .next { s with
        V := (s.V.set x (BitVec.ofNat 8 ((256 + b - a) % 256))).set 15 (if b > a then 1#8 else 0#8), pc := s.pc + 2#16 }

/-- 8xy6 and 8xyE (R179, R181; D6 for the order, D7 for the source V[x]): V[y] does not matter. -/
def Obligations.ShiftsReadVx : Prop :=
  ∀ x y : Reg,
    let word := fun g : BitVec 4 => (0x8#4 ++ BitVec.ofNat 4 x.val ++ BitVec.ofNat 4 y.val ++ g : Word)
    decodeWord (word 6) = some (.shr x y) ∧ decodeWord (word 0xE) = some (.shl x y) ∧
    ∀ s : State,
      let a := s.V[x].toNat
      exec (.shr x y) s = .next { s with
        V := (s.V.set x (BitVec.ofNat 8 (a / 2))).set 15 (BitVec.ofNat 8 (a % 2)), pc := s.pc + 2#16 } ∧
      exec (.shl x y) s = .next { s with
        V := (s.V.set x (BitVec.ofNat 8 (a * 2 % 256))).set 15 (BitVec.ofNat 8 (a / 128)), pc := s.pc + 2#16 }

/-- Cxnn (R183; D24): V[x] is the AND of `nn` with the next draw, whatever byte it is, and the draw is used up (log entry 4);
so no bit is set that is clear in `nn`. -/
def Obligations.RandomAndMasksAFreshDraw : Prop :=
  ∀ (x : Reg) (nn : Byte),
    decodeWord (0xC#4 ++ BitVec.ofNat 4 x.val ++ nn) = some (.rnd x nn) ∧
    ∀ s : State, ∃ t, exec (.rnd x nn) s = .next t ∧ t.V = s.V.set x (Config.randomByte s.draws &&& nn) ∧
      t.pc = s.pc + 2#16 ∧ t.draws = s.draws + 1 ∧ t.V[x] &&& ~~~nn = 0#8 ∧
      { t with V := s.V, pc := s.pc, draws := s.draws } = s

/-! ### Index register and memory -/

/-- Annn and Fx29 (R200, R202): I is `nnn`, or five times the whole register; nothing else but pc changes. -/
def Obligations.SetIndexAndGlyph : Prop :=
  (∀ nnn : Addr12, decodeWord (0xA#4 ++ nnn) = some (.ldI nnn) ∧
    ∀ s : State, exec (.ldI nnn) s = .next { s with I := nnn.setWidth 16, pc := s.pc + 2#16 }) ∧
  (∀ x : Reg, decodeWord (0xF#4 ++ BitVec.ofNat 4 x.val ++ 0x29#8) = some (.ldF x) ∧
    ∀ s : State, ∃ t, exec (.ldF x) s = .next t ∧ t.I.toNat = s.V[x].toNat * 5 ∧ t.pc = s.pc + 2#16 ∧
      { t with I := s.I, pc := s.pc } = s)

/-- Fx1E (R201; D16): I plus the register modulo 2^16, and no flag. -/
def Obligations.AddToIndexWraps : Prop :=
  ∀ x : Reg, decodeWord (0xF#4 ++ BitVec.ofNat 4 x.val ++ 0x1E#8) = some (.addI x) ∧
    ∀ s : State, exec (.addI x) s = .next { s with
      I := BitVec.ofNat 16 ((s.I.toNat + s.V[x].toNat) % 65536), pc := s.pc + 2#16 }

/-- Fx33 (R203, R71, R72; D11): the digits of V[x] at I, I+1, I+2, every other byte as before, I unchanged; `MEM_OOB` where I
+ 2 > 4095, and nothing written. -/
def Obligations.BcdStoresThreeDigits : Prop :=
  ∀ x : Reg, decodeWord (0xF#4 ++ BitVec.ofNat 4 x.val ++ 0x33#8) = some (.ldB x) ∧
    ∀ s : State,
      (s.I.toNat + 2 ≤ 4095 → ∃ t, exec (.ldB x) s = .next t ∧
        (t.M.read s.I.toNat).toNat = s.V[x].toNat / 100 ∧
        (t.M.read (s.I.toNat + 1)).toNat = s.V[x].toNat / 10 % 10 ∧
        (t.M.read (s.I.toNat + 2)).toNat = s.V[x].toNat % 10 ∧
        (∀ a, a < s.I.toNat ∨ s.I.toNat + 2 < a → t.M.read a = s.M.read a) ∧
        t.pc = s.pc + 2#16 ∧ { t with M := s.M, pc := s.pc } = s) ∧
      (s.I.toNat + 2 > 4095 → Faults s .memOob (.value (max s.I.toNat 4096)) (exec (.ldB x) s))

/-- Fx55 (R204, R71, R72; D11): V[0..x] at I..I+x, every other byte as before, I unchanged; `MEM_OOB` where I + x > 4095, and
nothing written. -/
def Obligations.DumpStoresRegisters : Prop :=
  ∀ x : Reg, decodeWord (0xF#4 ++ BitVec.ofNat 4 x.val ++ 0x55#8) = some (.ldMemV x) ∧
    ∀ s : State,
      (s.I.toNat + x.val ≤ 4095 → ∃ t, exec (.ldMemV x) s = .next t ∧
        (∀ i : Reg, i ≤ x → t.M.read (s.I.toNat + i.val) = s.V[i]) ∧
        (∀ a, a < s.I.toNat ∨ s.I.toNat + x.val < a → t.M.read a = s.M.read a) ∧
        t.pc = s.pc + 2#16 ∧ { t with M := s.M, pc := s.pc } = s) ∧
      (s.I.toNat + x.val > 4095 → Faults s .memOob (.value (max s.I.toNat 4096)) (exec (.ldMemV x) s))

/-- Fx65 (R205, R71, R72; D11): V[0..x] from I..I+x, the other registers, memory and I unchanged; `MEM_OOB` where I + x >
4095, and no register written. -/
def Obligations.LoadReadsRegisters : Prop :=
  ∀ x : Reg, decodeWord (0xF#4 ++ BitVec.ofNat 4 x.val ++ 0x65#8) = some (.ldVMem x) ∧
    ∀ s : State,
      (s.I.toNat + x.val ≤ 4095 → ∃ t, exec (.ldVMem x) s = .next t ∧
        (∀ i : Reg, t.V[i] = if i ≤ x then s.M.read (s.I.toNat + i.val) else s.V[i]) ∧
        t.pc = s.pc + 2#16 ∧ { t with V := s.V, pc := s.pc } = s) ∧
      (s.I.toNat + x.val > 4095 → Faults s .memOob (.value (max s.I.toNat 4096)) (exec (.ldVMem x) s))

/-- S8 (corner case of R205): a dump and a load from the same I, with anything done to the registers between them, restore
V[0..x] exactly, and neither changes I. -/
def Obligations.LoadAfterDumpRestores : Prop :=
  ∀ (x : Reg) (s t u : State), s.I.toNat + x.val ≤ 4095 → exec (.ldMemV x) s = .next t → u.M = t.M → u.I = t.I →
    ∃ v, exec (.ldVMem x) u = .next v ∧ t.I = s.I ∧ v.I = s.I ∧ ∀ i : Reg, i ≤ x → v.V[i] = s.V[i]

/-- Self-modifying code (R84; D18, vector FD10): where a dump stores over the next instruction, the next fetch reads the
stored bytes. -/
def Obligations.StoredWordIsFetchedNext : Prop :=
  ∀ (x : Reg) (s t : State), 1 ≤ x.val → s.I.toNat = s.pc.toNat + 2 → s.I.toNat + x.val ≤ 4095 →
    exec (.ldMemV x) s = .next t → t.fetch = some (s.V[0] ++ s.V[1])

/-! ### Memory -/

/-- The canonical form determines a memory by what it reads as: two memories in canonical form that read alike at every
address 0..4095 are equal (the form is the model's own, log entry 1). -/
def Obligations.MemoriesThatReadAlikeAreEqual : Prop :=
  ∀ m n : Memory, m.wf = true → n.wf = true → (∀ a, a < 4096 → m.read a = n.read a) → m = n

/-! ### Display -/

/-- 00E0 (R120; D21): every cell 0, no publish, nothing else but pc changes. -/
def Obligations.ClearScreenZeroesEveryCell : Prop :=
  decodeWord 0x00E0#16 = some .cls ∧
    ∀ s : State, ∃ t, exec .cls s = .next t ∧ (∀ c, c < 2048 → t.fb.cell c = false) ∧ t.pc = s.pc + 2#16 ∧
      { t with fb := s.fb, pc := s.pc } = s

/-- Dxyn where it completes (R121 to R123, R125; D6, D11, D12, D21): the sprite's bytes lie in memory and its set bits in the
grid. Then every cell is inverted exactly where a set bit covers it, VF is 1 exactly where some set bit hit a lit pixel, the
frame is published once, pc advances, and nothing else changes. n = 0 is included. (The list of outputs is the model's own,
log entry 9.) -/
def Obligations.DrawXorsCoveredCells : Prop :=
  ∀ (x y : Reg) (n : Nat),
    (n < 16 → decodeWord (0xD#4 ++ BitVec.ofNat 4 x.val ++ BitVec.ofNat 4 y.val ++ BitVec.ofNat 4 n) = some (.drw x y n)) ∧
    ∀ s : State, (n = 0 ∨ s.I.toNat + n ≤ 4096) →
      (∀ col row, SpriteCovers s x y n col row → col ≤ 63 ∧ row ≤ 31) →
      ∃ t, exec (.drw x y n) s = .next t ∧
        (∀ col row, col ≤ 63 → row ≤ 31 →
          (t.fb.cell (row * 64 + col) ≠ s.fb.cell (row * 64 + col) ↔ SpriteCovers s x y n col row)) ∧
        (∃ hit : Bool, (hit = true ↔ ∃ col row, SpriteCovers s x y n col row ∧ s.fb.cell (row * 64 + col) = true) ∧
          t.V = s.V.set 15 (if hit then 1#8 else 0#8)) ∧
        t.outputs = s.outputs ++ [.publish t.fb] ∧ t.pc = s.pc + 2#16 ∧
        { t with V := s.V, pc := s.pc, fb := s.fb, outputs := s.outputs } = s

/-- Dxyn whose rows reach past address 4095 (R121, R71, R264; D11): `MEM_OOB` before anything else, and nothing drawn. -/
def Obligations.DrawPastMemoryFaults : Prop :=
  ∀ (x y : Reg) (n : Nat) (s : State), 0 < n → s.I.toNat + n > 4096 →
    Faults s .memOob (.value (max s.I.toNat 4096)) (exec (.drw x y n) s)

/-- Dxyn with a set bit outside the grid (R124, R264; D12): `DRAW_OOB` with the column and row of the first such bit in
row-major order, and nothing drawn. -/
def Obligations.DrawPastEdgeFaults : Prop :=
  ∀ (x y : Reg) (n : Nat) (s : State) (col row : Nat), s.I.toNat + n ≤ 4096 →
    SpriteCovers s x y n col row → (col > 63 ∨ row > 31) →
    (∀ col' row', SpriteCovers s x y n col' row' → (row' < row ∨ (row' = row ∧ col' < col)) → col' ≤ 63 ∧ row' ≤ 31) →
    Faults s .drawOob (.pixel col row) (exec (.drw x y n) s)

/-- S7 and corner case (f) of R121: the same sprite drawn twice at the same place restores the framebuffer, and the second
draw sets VF to 1 where some covered cell was unlit at first, and to 0 otherwise. (Corner case (f) says "sets VF to 1 on the
second draw, if the sprite has a set bit"; by the rule's own operation that is so unless every covered cell was lit before
the first draw: log entry 13.) VF itself as a coordinate register is another place, as the first draw writes it. -/
def Obligations.DrawTwiceRestoresTheScreen : Prop :=
  ∀ (x y : Reg) (n : Nat) (s : State), x ≠ 15 → y ≠ 15 → (n = 0 ∨ s.I.toNat + n ≤ 4096) →
    (∀ col row, SpriteCovers s x y n col row → col ≤ 63 ∧ row ≤ 31) →
    ∃ t u, exec (.drw x y n) s = .next t ∧ exec (.drw x y n) t = .next u ∧ u.fb = s.fb ∧
      ((∃ col row, SpriteCovers s x y n col row ∧ s.fb.cell (row * 64 + col) = false) → u.V[15] = 1#8) ∧
      ((∀ col row, SpriteCovers s x y n col row → s.fb.cell (row * 64 + col) = true) → u.V[15] = 0#8)

/-! ### Keypad and timers -/

/-- Ex9E and ExA1 (R230, R231; D13): the key numbered V[x] decides the skip; above 15, `KEY_OOB`. -/
def Obligations.KeySkipsTestTheKey : Prop :=
  ∀ x : Reg,
    decodeWord (0xE#4 ++ BitVec.ofNat 4 x.val ++ 0x9E#8) = some (.skp x) ∧
    decodeWord (0xE#4 ++ BitVec.ofNat 4 x.val ++ 0xA1#8) = some (.sknp x) ∧
    ∀ s : State,
      (∀ k : Key, s.V[x].toNat = k.val →
        exec (.skp x) s = .next { s with pc := s.pc + if s.keys[k] = true then 4#16 else 2#16 } ∧
        exec (.sknp x) s = .next { s with pc := s.pc + if s.keys[k] = true then 2#16 else 4#16 }) ∧
      (s.V[x].toNat > 15 →
        Faults s .keyOob (.value s.V[x].toNat) (exec (.skp x) s) ∧
        Faults s .keyOob (.value s.V[x].toNat) (exec (.sknp x) s))

/-- Fx07 and Fx15 (R232, R233): the delay timer is read or written whole, and nothing else but pc changes. -/
def Obligations.DelayTimerTransfers : Prop :=
  ∀ x : Reg,
    decodeWord (0xF#4 ++ BitVec.ofNat 4 x.val ++ 0x07#8) = some (.ldVDT x) ∧
    decodeWord (0xF#4 ++ BitVec.ofNat 4 x.val ++ 0x15#8) = some (.ldDTV x) ∧
    ∀ s : State,
      exec (.ldVDT x) s = .next { s with V := s.V.set x s.DT, pc := s.pc + 2#16 } ∧
      exec (.ldDTV x) s = .next { s with DT := s.V[x], pc := s.pc + 2#16 }

/-- Fx18 and the tone output (R234, R279; D23): the sound timer is written whole, and the tone is on while it is not 0. -/
def Obligations.SoundTimerDrivesTheTone : Prop :=
  ∀ x : Reg, decodeWord (0xF#4 ++ BitVec.ofNat 4 x.val ++ 0x18#8) = some (.ldSTV x) ∧
    ∀ s : State, ∃ t, exec (.ldSTV x) s = .next t ∧ t = { s with ST := s.V[x], pc := s.pc + 2#16 } ∧
      (t.tone = true ↔ s.V[x].toNat ≠ 0)

/-- Fx0A, entry (R235; D14): the wait is entered with the latch empty and pc held, and nothing else changes. -/
def Obligations.KeyWaitHoldsPc : Prop :=
  ∀ x : Reg, decodeWord (0xF#4 ++ BitVec.ofNat 4 x.val ++ 0x0A#8) = some (.ldVK x) ∧
    ∀ s : State, exec (.ldVK x) s = .next { s with run := .awaitingKey x, keyLatch := none }

/-- Fx0A, completion and hold (R236; D14): with a latched key the CPU's step stores its number, advances, and fetches
nothing; with none the step changes nothing but the agenda (that a held turn passes is the model's choice, log entry 6). (The
agenda and `justInitialized` are the model's own, log entries 5 and 8.) -/
def Obligations.KeyWaitCompletesWithTheLatchedKey : Prop :=
  ∀ (s : State) (rest : List Event) (x : Reg), s.CpuTurn rest → s.run = .awaitingKey x →
    (∀ k : Key, s.keyLatch = some k → step s = .next { s with
      V := s.V.set x (BitVec.ofNat 8 k.val)
      keyLatch := none
      run := .running
      pc := s.pc + 2#16
      cycleCount := s.cycleCount + 1
      agenda := rest
      justInitialized := false }) ∧
    (s.keyLatch = none → step s = .next { s with agenda := rest, justInitialized := false })

/-- What ends a key wait (R236, R272; D14): with the latch empty, no step but a press of a released key, or an Initialize,
changes the run state, the latch, pc or a register. (Whose turn it is: the model's agenda, log entry 5.) -/
def Obligations.OnlyAPressWakesTheWait : Prop :=
  ∀ (s t : State) (x : Reg), s.run = .awaitingKey x → s.keyLatch = none → step s = .next t →
    (∀ rest, s.agenda ≠ .init :: rest) → (∀ k rest, s.agenda = .press k :: rest → s.keys[k] = true) →
    t.run = .awaitingKey x ∧ t.keyLatch = none ∧ t.pc = s.pc ∧ t.V = s.V

/-- Press and Release (R282, R283; D14): a press of a released key sets it, and the latch only if the CPU waits with the
latch empty; a press of a pressed key, and a release, leave the latch alone. (The agenda and `justInitialized` are the
model's own, log entries 5 and 8.) -/
def Obligations.PressAndReleaseMoveKeysAndLatch : Prop :=
  ∀ (s : State) (k : Key) (rest : List Event),
    (s.agenda = .press k :: rest → ∃ t, step s = .next t ∧ t.keys = s.keys.set k true ∧
      (s.keys[k] = false → ∀ x, s.run = .awaitingKey x → s.keyLatch = none → t.keyLatch = some k) ∧
      ((s.keys[k] = true ∨ (∀ x, s.run ≠ .awaitingKey x) ∨ s.keyLatch ≠ none) → t.keyLatch = s.keyLatch) ∧
      { t with keys := s.keys, keyLatch := s.keyLatch } = { s with agenda := rest, justInitialized := false }) ∧
    (s.agenda = .release k :: rest → step s = .next { s with
      keys := s.keys.set k false, agenda := rest, justInitialized := false })

/-- The timer's step (R275; D22): both timers count down by one, not below 0, in every run state, and nothing else changes.
(The agenda and `justInitialized` are the model's own, log entries 5 and 8.) -/
def Obligations.TickCountsBothTimersDown : Prop :=
  ∀ (s : State) (rest : List Event), s.agenda = .tick :: rest → ∃ t, step s = .next t ∧
    t.DT.toNat = s.DT.toNat - 1 ∧ t.ST.toNat = s.ST.toNat - 1 ∧
    { t with DT := s.DT, ST := s.ST } = { s with agenda := rest, justInitialized := false }

/-- A timer step and an instruction that does not name a timer may come in either order (R73, R81, R265; D1): the results are
equal. -/
def Obligations.TickCommutesWithOtherInstructions : Prop :=
  ∀ (i : Instr) (s t : State), (∀ x, i ≠ .ldVDT x ∧ i ≠ .ldDTV x ∧ i ≠ .ldSTV x) → exec i s = .next t →
    exec i s.timerTick = .next t.timerTick

/-- In every admitted run, a delay timer that only the timer writes from some step on reaches 0 (R276; D2: weak fairness of
the timer). -/
def Obligations.FairTimerReachesZero : Prop :=
  ∀ (r : Nat → State) (e : Nat → Event) (k : Nat), IsRun r e → TimerFair r e →
    (∀ m, k ≤ m → e m ≠ .tick → (r (m + 1)).DT = (r m).DT) → ∃ m, k ≤ m ∧ (r m).DT = 0#8

/-! ### Faults -/

/-- Faults are precise (R262; D10): a CPU step that ends in `Faulted` wrote `opcode`, `run` and `fault` and nothing else
(past its turn); the record holds the pc and the fetched word, or, for `FETCH_OOB`, word 0, and then `opcode` too is
unchanged. (The agenda and `justInitialized` are the model's own, log entries 5 and 8.) -/
def Obligations.FaultsArePrecise : Prop :=
  ∀ (s t : State) (rest : List Event), s.CpuTurn rest → s.run = .running → step s = .next t → t.run = .faulted →
    ∃ r, t.fault = some r ∧ r.pc = s.pc ∧
      (r.cause = .fetchOob → r.word = 0#16 ∧ t.opcode = s.opcode) ∧
      (r.cause ≠ .fetchOob → s.fetch = some r.word ∧ t.opcode = r.word) ∧
      { t with opcode := s.opcode, run := s.run, fault := s.fault } =
        { s with agenda := rest, justInitialized := false }

/-- In `Faulted` the CPU has no step: its turn stops the machine with the record (R38, R262; D10; as an outcome, log entry
7); and no step of the timer or the host but Initialize changes the run state or the record (R263; D10, D22). (Whose turn it
is: the model's agenda, log entry 5.) -/
def Obligations.FaultedLastsUntilInitialize : Prop :=
  ∀ s : State, s.run = .faulted →
    (∀ rest, s.CpuTurn rest → step s = .fault (.cpuFaulted s.fault)) ∧
    (∀ t, step s = .next t → (∀ rest, s.agenda ≠ .init :: rest) → t.run = .faulted ∧ t.fault = s.fault)

/-! ### The host -/

/-- Initialize (R300, R302; D10, D19 for the items the source does not list), in every run state: each item at its reset
value, the font at 0..79, memory above it and the keys unchanged, and one publish of the blank frame. (Whose turn it is: the
model's agenda, log entry 5.) (The list of outputs is the model's own, log entry 9.) -/
def Obligations.InitializeResetsEveryItem : Prop :=
  ∀ (s : State) (rest : List Event), s.agenda = .init :: rest → ∃ t, step s = .next t ∧
    t.pc = 512#16 ∧ t.opcode = 0#16 ∧ t.I = 0#16 ∧ t.sp.val = 0 ∧ (∀ j : Fin 16, t.V[j] = 0#8 ∧ t.stack[j] = 0#16) ∧
    (∀ c, c < 2048 → t.fb.cell c = false) ∧ t.DT = 0#8 ∧ t.ST = 0#8 ∧ t.run = .running ∧ t.keyLatch = none ∧
    t.fault = none ∧ t.advisory = [] ∧ t.cycleCount = 0 ∧ t.keys = s.keys ∧
    (∀ a, t.M.read a = if a < 80 then font.getD a 0#8 else s.M.read a) ∧
    t.outputs = s.outputs ++ [.publish t.fb] ∧ t.agenda = rest

/-- Initialize is idempotent (R301): a second one leaves the state of the first and publishes once more. (Whose turn it is:
the model's agenda, log entry 5.) (The list of outputs is the model's own, log entry 9.) -/
def Obligations.InitializeTwiceIsOnce : Prop :=
  ∀ (s t u : State) (rest : List Event), s.agenda = .init :: .init :: rest → step s = .next t → step t = .next u →
    u = { t with outputs := t.outputs ++ [.publish t.fb], agenda := rest }

/-- LoadProgram directly after Initialize (R303, R304): a ROM of at most 3584 bytes is written at 512 and no other byte and
no other state changes; a longer one changes no state, and `CapacityExceeded` is handed to the host (in `outputs`, log entry
9); either way a load no longer follows an Initialize directly. (The agenda and `justInitialized` are the model's own, log
entries 5 and 8.) -/
def Obligations.LoadWritesTheRomOrNothing : Prop :=
  ∀ (s : State) (rom : List Byte) (rest : List Event), s.agenda = .load rom :: rest → s.justInitialized = true →
    (rom.length ≤ 3584 → ∃ t, step s = .next t ∧
      (∀ j, j < rom.length → t.M.read (512 + j) = rom.getD j 0#8) ∧
      (∀ a, a < 512 ∨ 512 + rom.length ≤ a → t.M.read a = s.M.read a) ∧
      { t with M := s.M } = { s with agenda := rest, justInitialized := false }) ∧
    (rom.length > 3584 → step s = .next { s with
      outputs := s.outputs ++ [.capacityExceeded], agenda := rest, justInitialized := false })

/-- LoadProgram is issued at no other time (R306, U16; D30): the model refuses it by name (log entry 8), and after any step
but an Initialize, a failed load among them, it is refused. (The agenda and `justInitialized` are the model's own, log
entries 5 and 8.) -/
def Obligations.LoadOnlyDirectlyAfterInitialize : Prop :=
  (∀ (s : State) (rom : List Byte) (rest : List Event), s.agenda = .load rom :: rest → s.justInitialized = false →
    step s = .refused .loadNotAfterInitialize) ∧
  (∀ s t : State, step s = .next t → (t.justInitialized = true ↔ ∃ rest, s.agenda = .init :: rest))

/-- Memory after a launch (R64, R306; D19): whatever the memory before, the font at 0..79, the ROM from 512, and every other
byte as it was; pc is 512 and the CPU runs. (Whose turn it is: the model's agenda, log entry 5.) -/
def Obligations.LaunchMemoryIsFontAndRom : Prop :=
  ∀ (s : State) (rom : List Byte) (rest : List Event), s.agenda = .init :: .load rom :: rest → rom.length ≤ 3584 →
    ∃ t u, step s = .next t ∧ step t = .next u ∧ u.pc = 512#16 ∧ u.run = .running ∧ u.fault = none ∧
      ∀ a, u.M.read a =
        if a < 80 then font.getD a 0#8
        else if 512 ≤ a ∧ a < 512 + rom.length then rom.getD (a - 512) 0#8
        else s.M.read a

/-- The state after reset (R302; D19, D28): every value the spec gives, read through the model's accessors. The values of
memory above 79 are the model's choice (log entry 1) and are not stated. -/
def Obligations.ResetValues : Prop :=
  let s := State.reset
  s.pc = 0x200#16 ∧ s.opcode = 0#16 ∧ s.I = 0#16 ∧ s.sp.val = 0 ∧ (∀ j : Fin 16, s.V[j] = 0#8 ∧ s.stack[j] = 0#16) ∧
  (∀ c, c < 2048 → s.fb.cell c = false) ∧ (∀ a, a < 80 → s.M.read a = font.getD a 0#8) ∧ s.DT = 0#8 ∧ s.ST = 0#8 ∧
  (∀ k : Key, s.keys[k] = false) ∧ s.run = .running ∧ s.keyLatch = none ∧ s.fault = none ∧ s.advisory = [] ∧
  s.cycleCount = 0

/-! ### The whole machine -/

/-- The invariant holds at reset (R29, R33, R39, R40, R302). (The memory form is the model's own, log entry 1.) -/
def Obligations.InvariantAtReset : Prop := State.reset.Inv

/-- Every step of every agent, from every state, keeps the invariant (R29, R33, R39, R40, R60): the canonical form of memory,
the bound of pc and of the stacked addresses, and that the fault record and the key latch go with the run state. (Whose turn
it is: the model's agenda, log entry 5.) -/
def Obligations.EveryStepKeepsTheInvariant : Prop :=
  ∀ s t : State, s.Inv → step s = .next t → t.Inv

/-- What is hidden from a program does not influence it (R35, R47): erasing `opcode`, `cycle_count`, the advisory log, the
outputs, the sound timer and the stale stack entries before a step erases no more than that after it, and changes no outcome.
(Whose turn it is: the model's agenda, log entry 5.) -/
def Obligations.HiddenStateDoesNotInfluence : Prop :=
  ∀ s : State,
    (∀ t, step s = .next t → ∃ t', step s.visible = .next t' ∧ t'.visible = t.visible) ∧
    (∀ r, step s = .fault r → step s.visible = .fault r) ∧
    (∀ r, step s = .refused r → step s.visible = .refused r)

/-- The writers of the general registers are those of R23's table (D6, D8); no other register changes. -/
def Obligations.OnlyTabledRegistersChange : Prop :=
  ∀ (i : Instr) (s t : State) (r : Reg), exec i s = .next t → ¬ writesReg i r → t.V[r] = s.V[r]

/-- The writers of the other state (R31, R32, R34, R35, R36, R60, R280): whatever the operands, I changes only by Annn, Fx1E
and Fx29; memory only by Fx33 and Fx55; the framebuffer only by 00E0 and Dxyn, and only Dxyn publishes; the timers only by
Fx15 and Fx18; the stack only by 2nnn, and sp by 2nnn and 00EE; the draws only by Cxnn; and the latch only by Fx0A. (The
counter of the draws and the list of outputs are the model's own, log entries 4 and 9.) -/
def Obligations.OnlyTheirWritersChangeState : Prop :=
  ∀ (i : Instr) (s t : State), exec i s = .next t →
    (t.I ≠ s.I → (∃ nnn, i = .ldI nnn) ∨ ∃ x, i = .addI x ∨ i = .ldF x) ∧
    (t.M ≠ s.M → ∃ x, i = .ldB x ∨ i = .ldMemV x) ∧
    (t.fb ≠ s.fb → i = .cls ∨ ∃ x y n, i = .drw x y n) ∧
    (t.outputs ≠ s.outputs → ∃ x y n, i = .drw x y n) ∧
    (t.DT ≠ s.DT → ∃ x, i = .ldDTV x) ∧ (t.ST ≠ s.ST → ∃ x, i = .ldSTV x) ∧
    (t.stack ≠ s.stack → ∃ nnn, i = .call nnn) ∧ (t.sp ≠ s.sp → i = .ret ∨ ∃ nnn, i = .call nnn) ∧
    (t.draws ≠ s.draws → ∃ x nn, i = .rnd x nn) ∧ (t.keyLatch ≠ s.keyLatch → ∃ x, i = .ldVK x)

/-- The advisory log and the outputs only grow, in the order of the steps, but that Initialize empties the log (R41, R86,
R268, R280; D5, D21): a step adds at most one record and at most one output. (Whose turn it is: the model's agenda, log entry
5.) (The list of outputs is the model's own, log entry 9.) -/
def Obligations.LogsOnlyGrow : Prop :=
  ∀ s t : State, step s = .next t →
    (∃ l, t.outputs = s.outputs ++ l ∧ l.length ≤ 1) ∧
    ((∃ rest, s.agenda = .init :: rest) ∨ ∃ l, t.advisory = s.advisory ++ l ∧ l.length ≤ 1)

/-- The spin halt (R313; D26): from a halted state the CPU's step leaves all state unchanged except `cycle_count`, and
`opcode`, which the fetch writes with the jump's word (R42, R94; log entry 12), past its turn; the state is halted again; and
once `opcode` holds that word, so from the second such step on, `cycle_count` alone changes. (The agenda and
`justInitialized` are the model's own, log entries 5 and 8.) -/
def Obligations.SpinHaltLeavesStateUnchanged : Prop :=
  ∀ (s : State) (rest : List Event), s.Halted → s.CpuTurn rest → ∃ t w, step s = .next t ∧ s.fetch = some w ∧
    t = { s with opcode := w, cycleCount := s.cycleCount + 1, agenda := rest, justInitialized := false } ∧ t.Halted ∧
    (s.opcode = w → t = { s with cycleCount := s.cycleCount + 1, agenda := rest, justInitialized := false }) ∧
    ∀ rest', t.CpuTurn rest' → step t = .next { t with cycleCount := t.cycleCount + 1, agenda := rest' }
end

