-- ==== Sys2Proof/Laws/Decode.lean ====
section
/-! SUPPORT. The fields of an encoded word, format by format, so that no later proof takes a concatenation of bits apart. -/

namespace Sys2Proof

/-- The number a concatenation stands for. -/
theorem toNat_append_eq {m n : Nat} (a : BitVec m) (b : BitVec n) : (a ++ b).toNat = a.toNat * 2 ^ n + b.toNat := by
  rw [BitVec.toNat_append, ← Nat.shiftLeft_add_eq_or_of_lt b.isLt, Nat.shiftLeft_eq]

theorem toNat_regBits (r : Reg) : (regBits r).toNat = r.val := rfl

/-- A register number's bits as a number of four bits. -/
theorem regBits_eq_ofNat (r : Reg) : regBits r = BitVec.ofNat 4 r.val := by
  apply BitVec.eq_of_toNat_eq
  have := r.isLt
  simp only [toNat_regBits, BitVec.toNat_ofNat]
  omega

theorem encA_toNat (f : BitVec 4) (nnn : Addr12) : (encA f nnn).toNat = f.toNat * 4096 + nnn.toNat :=
  toNat_append_eq f nnn

theorem encXI_toNat (f : BitVec 4) (x : Reg) (nn : Byte) :
    (encXI f x nn).toNat = f.toNat * 4096 + x.val * 256 + nn.toNat := by
  unfold encXI
  rw [toNat_append_eq, toNat_append_eq, toNat_regBits]
  omega

theorem encXYN_toNat (f : BitVec 4) (x y : Reg) (g : BitVec 4) :
    (encXYN f x y g).toNat = f.toNat * 4096 + x.val * 256 + y.val * 16 + g.toNat := by
  unfold encXYN
  rw [toNat_append_eq, toNat_append_eq, toNat_append_eq, toNat_regBits, toNat_regBits]
  omega

/-! ### The fields as numbers (R91) -/

theorem famOf_toNat (w : Word) : (famOf w).toNat = w.toNat / 4096 := by
  have := w.isLt
  simp only [famOf, BitVec.extractLsb'_toNat, Nat.shiftRight_eq_div_pow]
  omega

theorem fieldX_val (w : Word) : (fieldX w).val = w.toNat / 256 % 16 := by
  simp [fieldX, Nat.shiftRight_eq_div_pow]

theorem fieldY_val (w : Word) : (fieldY w).val = w.toNat / 16 % 16 := by
  simp [fieldY, Nat.shiftRight_eq_div_pow]

theorem fieldN_toNat (w : Word) : (fieldN w).toNat = w.toNat % 16 := by
  simp [fieldN]

theorem fieldNN_toNat (w : Word) : (fieldNN w).toNat = w.toNat % 256 := by
  simp [fieldNN]

theorem fieldNNN_toNat (w : Word) : (fieldNNN w).toNat = w.toNat % 4096 := by
  simp [fieldNNN]

/-! ### The fields of an encoded word, per format (R92) -/

@[simp] theorem famOf_encA (f : BitVec 4) (nnn : Addr12) : famOf (encA f nnn) = f := by
  have := nnn.isLt
  apply BitVec.eq_of_toNat_eq
  rw [famOf_toNat, encA_toNat]
  omega

@[simp] theorem fieldNNN_encA (f : BitVec 4) (nnn : Addr12) : fieldNNN (encA f nnn) = nnn := by
  have := nnn.isLt
  apply BitVec.eq_of_toNat_eq
  rw [fieldNNN_toNat, encA_toNat]
  omega

@[simp] theorem famOf_encXI (f : BitVec 4) (x : Reg) (nn : Byte) : famOf (encXI f x nn) = f := by
  have := nn.isLt
  apply BitVec.eq_of_toNat_eq
  rw [famOf_toNat, encXI_toNat]
  omega

@[simp] theorem fieldX_encXI (f : BitVec 4) (x : Reg) (nn : Byte) : fieldX (encXI f x nn) = x := by
  have := nn.isLt
  apply Fin.ext
  rw [fieldX_val, encXI_toNat]
  omega

@[simp] theorem fieldNN_encXI (f : BitVec 4) (x : Reg) (nn : Byte) : fieldNN (encXI f x nn) = nn := by
  have := nn.isLt
  apply BitVec.eq_of_toNat_eq
  rw [fieldNN_toNat, encXI_toNat]
  omega

@[simp] theorem famOf_encXYN (f : BitVec 4) (x y : Reg) (g : BitVec 4) : famOf (encXYN f x y g) = f := by
  have := g.isLt
  apply BitVec.eq_of_toNat_eq
  rw [famOf_toNat, encXYN_toNat]
  omega

@[simp] theorem fieldX_encXYN (f : BitVec 4) (x y : Reg) (g : BitVec 4) : fieldX (encXYN f x y g) = x := by
  have := g.isLt
  apply Fin.ext
  rw [fieldX_val, encXYN_toNat]
  omega

@[simp] theorem fieldY_encXYN (f : BitVec 4) (x y : Reg) (g : BitVec 4) : fieldY (encXYN f x y g) = y := by
  have := g.isLt
  apply Fin.ext
  rw [fieldY_val, encXYN_toNat]
  omega

@[simp] theorem fieldN_encXYN (f : BitVec 4) (x y : Reg) (g : BitVec 4) : fieldN (encXYN f x y g) = g := by
  have := g.isLt
  apply BitVec.eq_of_toNat_eq
  rw [fieldN_toNat, encXYN_toNat]
  omega

/-! ### Byte layout (R65) -/

theorem composeWord_toNat (hi lo : Byte) : (composeWord hi lo).toNat = hi.toNat * 256 + lo.toNat :=
  toNat_append_eq hi lo

/-- A word laid out high byte first composes to itself. -/
@[simp] theorem composeWord_bytes (w : Word) : composeWord (hiByte w) (loByte w) = w := by
  have := w.isLt
  apply BitVec.eq_of_toNat_eq
  rw [composeWord_toNat]
  simp only [hiByte, loByte, BitVec.extractLsb'_toNat, Nat.shiftRight_eq_div_pow]
  omega

/-- The host's word decodes as the word itself. -/
theorem decodeTableWord_eq (nbits w : Nat) : decodeTableWord nbits w = decodeWord (tableWord nbits w) := by
  simp only [decodeTableWord, decode, composeWord_bytes]
  cases decodeWord (tableWord nbits w) <;> rfl

end Sys2Proof
end

