-- ==== Sys2Proof/Laws/Framebuffer.lean ====
section
/-! SUPPORT. The laws of the framebuffer: what one flip does to a cell, which pixels a sprite sets, and what drawing a list
of pixels does to a cell and to the collision flag. -/

namespace Sys2Proof.Machine

@[simp] theorem Framebuffer.cell_blankScreen (c : Nat) : Framebuffer.cell blankScreen c = false := by
  unfold Framebuffer.cell blankScreen
  by_cases h : c / 64 < 32 <;> simp [h]

/-- A flip inverts its own cell and no other. -/
theorem Framebuffer.cell_flip (fb : Framebuffer) {c : Nat} (d : Nat) (hc : c < 2048) :
    (fb.flip c).cell d = if d = c then !fb.cell d else fb.cell d := by
  have hrow : c / 64 < 32 := by omega
  unfold Framebuffer.cell Framebuffer.flip
  by_cases hd : d / 64 = c / 64
  · have : (fb.setIfInBounds (c / 64) (fb[c / 64]?.getD 0#64 ^^^ BitVec.twoPow 64 (c % 64)))[d / 64]? =
        some (fb[c / 64]?.getD 0#64 ^^^ BitVec.twoPow 64 (c % 64)) := by
      rw [hd]; simp [hrow]
    rw [this, hd]
    have hm : c % 64 < 64 := by omega
    by_cases he : d = c
    · subst he
      simp [hm]
    · have hne : ¬ c % 64 = d % 64 := by omega
      simp [BitVec.getLsbD_xor, BitVec.getLsbD_twoPow, he, hne]
  · have hne : ¬ c / 64 = d / 64 := fun e => hd e.symm
    have : ¬ d = c := fun e => hd (by rw [e])
    simp [hne, this]

/-- Two framebuffers with equal cells are equal. -/
theorem Framebuffer.ext_cells {f g : Framebuffer} (h : ∀ c, c < 2048 → f.cell c = g.cell c) : f = g := by
  apply Vector.ext
  intro r hr
  apply BitVec.eq_of_getLsbD_eq
  intro b hb
  have := h (r * 64 + b) (by omega)
  unfold Framebuffer.cell at this
  have h1 : (r * 64 + b) / 64 = r := by omega
  have h2 : (r * 64 + b) % 64 = b := by omega
  rw [h1, h2] at this
  simpa [hr] using this

/-- The pixels of a sprite byte at column `px`. -/
theorem mem_setColumns {b : Byte} {c : Nat} : c ∈ setColumns b ↔ c < 8 ∧ b.getLsbD (7 - c) = true := by
  simp [setColumns]

/-- The pixels of sprite rows: row `r`, bit `7 - c`, lands at column `px + c` and row `py + r` (R122). -/
theorem mem_setPixels {px py : Nat} {rows : List Byte} {p : Nat × Nat} :
    p ∈ setPixels px py rows ↔
      ∃ r c, r < rows.length ∧ c < 8 ∧ (rows.getD r 0#8).getLsbD (7 - c) = true ∧ p = (px + c, py + r) := by
  induction rows generalizing py with
  | nil => simp [setPixels]
  | cons b rest ih =>
    simp only [setPixels, List.mem_append, List.mem_map, mem_setColumns, ih]
    constructor
    · rintro (⟨c, ⟨hc, hb⟩, rfl⟩ | ⟨r, c, hr, hc, hb, rfl⟩)
      · exact ⟨0, c, by simp, hc, by simpa using hb, by simp⟩
      · exact ⟨r + 1, c, by simpa using hr, hc, by simpa using hb, by simp; omega⟩
    · rintro ⟨r, c, hr, hc, hb, rfl⟩
      cases r with
      | zero => exact .inl ⟨c, ⟨hc, by simpa using hb⟩, by simp⟩
      | succ r => exact .inr ⟨r, c, by simpa using hr, hc, by simpa using hb, by simp; omega⟩

/-- The pixels of one sprite are pairwise distinct (R123). -/
theorem nodup_setPixels (px py : Nat) (rows : List Byte) : (setPixels px py rows).Nodup := by
  induction rows generalizing py with
  | nil => simp [setPixels]
  | cons b rest ih =>
    simp only [setPixels]
    refine List.Nodup.append ?_ (ih (py + 1)) ?_
    · refine List.Nodup.map (fun a c h => ?_) (List.Nodup.filter _ List.nodup_range)
      simpa using h
    · intro p hp hq
      obtain ⟨c, -, rfl⟩ := List.mem_map.1 hp
      obtain ⟨r, c', -, -, -, h⟩ := mem_setPixels.1 hq
      have := congrArg Prod.snd h
      simp only at this
      omega

theorem any_congr_mem {α : Type} {f g : α → Bool} {l : List α} (h : ∀ q ∈ l, f q = g q) : l.any f = l.any g := by
  induction l with
  | nil => rfl
  | cons q rest ih => simp [h q (by simp), ih (fun r hr => h r (by simp [hr]))]

theorem cellOf_lt {p : Nat × Nat} (h : offGrid p = false) : p.1 < 64 ∧ p.2 < 32 ∧ cellOf p < 2048 := by
  simp only [offGrid, Bool.or_eq_false_iff, decide_eq_false_iff_not, not_lt] at h
  unfold cellOf
  omega

theorem cellOf_inj {p q : Nat × Nat} (hp : p.1 < 64) (hq : q.1 < 64) (h : cellOf p = cellOf q) : p = q := by
  unfold cellOf at h
  ext <;> omega

/-- Drawing a list of distinct on-grid pixels: a cell is inverted when its pixel is in the list, and the collision flag tells
whether any pixel of the list was lit before (R123). -/
theorem drawPixel_foldl (ps : List (Nat × Nat)) (acc : Framebuffer × Bool) (hnd : ps.Nodup)
    (hgrid : ∀ p ∈ ps, offGrid p = false) :
    (∀ col row, col < 64 → row < 32 →
      (ps.foldl drawPixel acc).1.cell (cellOf (col, row)) =
        (acc.1.cell (cellOf (col, row)) != decide ((col, row) ∈ ps))) ∧
    (ps.foldl drawPixel acc).2 = (acc.2 || ps.any (fun p => acc.1.cell (cellOf p))) := by
  induction ps generalizing acc with
  | nil => simp
  | cons p rest ih =>
    obtain ⟨hp, hnd'⟩ := List.nodup_cons.1 hnd
    obtain ⟨ih1, ih2⟩ := ih (drawPixel acc p) hnd' (fun q hq => hgrid q (by simp [hq]))
    obtain ⟨hpc, -, hcell⟩ := cellOf_lt (hgrid p (by simp))
    constructor
    · intro col row hcol hrow
      rw [List.foldl_cons, ih1 col row hcol hrow]
      simp only [drawPixel, Framebuffer.cell_flip _ _ hcell]
      by_cases he : (col, row) = p
      · subst he
        simp [hp]
      · have hne : ¬ cellOf (col, row) = cellOf p := fun h => he (cellOf_inj hcol hpc h)
        simp [hne, he]
    · rw [List.foldl_cons, ih2]
      have hsame : ∀ q ∈ rest, (acc.1.flip (cellOf p)).cell (cellOf q) = acc.1.cell (cellOf q) := by
        intro q hq
        have hne : ¬ cellOf q = cellOf p := fun h =>
          hp (cellOf_inj (cellOf_lt (hgrid q (by simp [hq]))).1 hpc h ▸ hq)
        rw [Framebuffer.cell_flip _ _ hcell, if_neg hne]
      simp only [drawPixel, List.any_cons, Bool.or_assoc]
      rw [any_congr_mem hsame]

end Sys2Proof.Machine
end

