-- ==== Sys2Proof/Laws/Memory.lean ====
section
/-! SUPPORT. The laws of memory: what a read after a write gives, and that every memory operation keeps the canonical
form. -/

namespace Sys2Proof.Machine

/-! ### Reading after writing -/

theorem Memory.read_filter_same (m : Memory) (a : Nat) :
    Memory.read (m.filter (fun c => c.1 != a)) a = unlisted a := by
  induction m with
  | nil => rfl
  | cons c rest ih =>
    by_cases h : c.1 = a
    · simp [h, ih]
    · simp [h, Memory.read, ih, Ne.symm h]

theorem Memory.read_filter_other (m : Memory) {a b : Nat} (hb : b ≠ a) :
    Memory.read (m.filter (fun c => c.1 != a)) b = Memory.read m b := by
  induction m with
  | nil => rfl
  | cons c rest ih =>
    by_cases h : c.1 = a
    · have : ¬ b = c.1 := by omega
      simp [h, ih, Memory.read, hb]
    · simp [h, Memory.read, ih]

theorem Memory.read_insertCell_same (m : Memory) (a : Nat) (v : Byte) (h : ∀ c ∈ m, c.1 ≠ a) :
    Memory.read (Memory.insertCell a v m) a = v := by
  induction m with
  | nil => simp [Memory.insertCell, Memory.read]
  | cons c rest ih =>
    have hc : ¬ a = c.1 := fun e => h c (by simp) e.symm
    by_cases hlt : a < c.1
    · simp [Memory.insertCell, hlt, Memory.read]
    · simp [Memory.insertCell, hlt, Memory.read, hc, ih (fun d hd => h d (by simp [hd]))]

theorem Memory.read_insertCell_other (m : Memory) {a b : Nat} (v : Byte) (hb : b ≠ a) :
    Memory.read (Memory.insertCell a v m) b = Memory.read m b := by
  induction m with
  | nil => simp [Memory.insertCell, Memory.read, hb]
  | cons c rest ih =>
    by_cases hlt : a < c.1
    · simp [Memory.insertCell, hlt, Memory.read, hb]
    · simp [Memory.insertCell, hlt, Memory.read, ih]

/-- A read after a write gives the value written at that address, and what was there at every other. -/
theorem Memory.read_write (m : Memory) (a b : Nat) (v : Byte) :
    Memory.read (Memory.write m a v) b = if b = a then v else Memory.read m b := by
  unfold Memory.write
  by_cases hb : b = a
  · subst hb
    by_cases hv : v = unlisted b
    · simp [hv, Memory.read_filter_same]
    · simp only [if_neg hv, if_true]
      exact Memory.read_insertCell_same _ _ _ (fun c hc => by simpa using (List.mem_filter.1 hc).2)
  · by_cases hv : v = unlisted a
    · simp [hv, hb, Memory.read_filter_other m hb]
    · simp [hv, hb, Memory.read_insertCell_other _ v hb, Memory.read_filter_other m hb]

/-- A read after a write of successive bytes. -/
theorem Memory.read_writeBytes (m : Memory) (a : Nat) (vs : List Byte) (b : Nat) :
    Memory.read (Memory.writeBytes m a vs) b =
      if a ≤ b ∧ b < a + vs.length then vs.getD (b - a) 0#8 else Memory.read m b := by
  induction vs generalizing m a with
  | nil => simp [Memory.writeBytes]
  | cons v rest ih =>
    rw [Memory.writeBytes, ih, Memory.read_write]
    by_cases hb : b = a
    · subst hb
      simp
    · by_cases h : a + 1 ≤ b ∧ b < a + 1 + rest.length
      · have h' : a ≤ b ∧ b < a + (v :: rest).length := by simp; omega
        have hs : b - a = (b - (a + 1)) + 1 := by omega
        rw [if_pos h, if_pos h', hs, List.getD_cons_succ]
      · have h' : ¬ (a ≤ b ∧ b < a + (v :: rest).length) := by simp; omega
        rw [if_neg h, if_neg h', if_neg hb]

/-! ### The canonical form -/

theorem Memory.wf_cons {a : Nat} {v : Byte} {rest : Memory} :
    Memory.wf ((a, v) :: rest) = true ↔
      a < 4096 ∧ v ≠ unlisted a ∧ (∀ c ∈ rest, a < c.1) ∧ Memory.wf rest = true := by
  simp [Memory.wf, and_assoc]

theorem Memory.wf_filter {m : Memory} (h : m.wf = true) (p : Host.Cell → Bool) : Memory.wf (m.filter p) = true := by
  induction m with
  | nil => rfl
  | cons c rest ih =>
    obtain ⟨a, v⟩ := c
    obtain ⟨ha, hv, hlt, hr⟩ := Memory.wf_cons.1 h
    by_cases hp : p (a, v)
    · rw [List.filter_cons_of_pos hp]
      exact Memory.wf_cons.2 ⟨ha, hv, fun c hc => hlt c (List.mem_filter.1 hc).1, ih hr⟩
    · rw [List.filter_cons_of_neg hp]
      exact ih hr

theorem Memory.mem_insertCell {a : Nat} {v : Byte} {m : Memory} {c : Host.Cell} :
    c ∈ Memory.insertCell a v m → c = (a, v) ∨ c ∈ m := by
  induction m with
  | nil => simp [Memory.insertCell]
  | cons d rest ih =>
    by_cases hlt : a < d.1
    · simp [Memory.insertCell, hlt]
    · simp only [Memory.insertCell, hlt, if_false, List.mem_cons]
      rintro (h | h)
      · exact .inr (.inl h)
      · exact (ih h).imp id .inr

theorem Memory.wf_insertCell {m : Memory} (h : m.wf = true) {a : Nat} {v : Byte} (ha : a < 4096) (hv : v ≠ unlisted a)
    (hne : ∀ c ∈ m, c.1 ≠ a) : Memory.wf (Memory.insertCell a v m) = true := by
  induction m with
  | nil => exact Memory.wf_cons.2 ⟨ha, hv, by simp, rfl⟩
  | cons d rest ih =>
    obtain ⟨b, w⟩ := d
    obtain ⟨hb, hw, hlt, hr⟩ := Memory.wf_cons.1 h
    by_cases hab : a < b
    · simp only [Memory.insertCell, hab, if_true]
      refine Memory.wf_cons.2 ⟨ha, hv, ?_, h⟩
      intro c hc
      rcases List.mem_cons.1 hc with rfl | hc
      · exact hab
      · exact lt_trans hab (hlt c hc)
    · simp only [Memory.insertCell, hab, if_false]
      refine Memory.wf_cons.2 ⟨hb, hw, ?_, ih hr (fun c hc => hne c (by simp [hc]))⟩
      intro c hc
      have := hne (b, w) (by simp)
      rcases Memory.mem_insertCell hc with rfl | hc
      · simp only at this ⊢; omega
      · exact hlt c hc

/-- A write inside the address space keeps the canonical form. -/
theorem Memory.wf_write {m : Memory} (h : m.wf = true) {a : Nat} (ha : a < 4096) (v : Byte) :
    Memory.wf (Memory.write m a v) = true := by
  unfold Memory.write
  by_cases hv : v = unlisted a
  · simpa [hv] using Memory.wf_filter h _
  · simp only [if_neg hv]
    exact Memory.wf_insertCell (Memory.wf_filter h _) ha hv (fun c hc => by simpa using (List.mem_filter.1 hc).2)

/-- A write of successive bytes inside the address space keeps the canonical form. -/
theorem Memory.wf_writeBytes {m : Memory} (h : m.wf = true) (a : Nat) (vs : List Byte) (ha : a + vs.length ≤ 4096) :
    Memory.wf (Memory.writeBytes m a vs) = true := by
  induction vs generalizing m a with
  | nil => exact h
  | cons v rest ih =>
    simp only [List.length_cons] at ha
    exact ih (Memory.wf_write h (by omega) v) (a + 1) (by omega)

/-- Reset's memory is in canonical form. -/
theorem State.reset_memory_wf : State.reset.M.wf = true := rfl

end Sys2Proof.Machine
end

