-- ==== Sys2Proof/Laws/State.lean ====
section
/-! SUPPORT. What each update of State leaves in each field, one lemma per field, so that no later proof unfolds a record
update: generated text. -/

namespace Sys2Proof.Machine

variable (s : State)

/-! ### State.setReg -/

@[simp] theorem State.setReg_V (x : Reg) (v : Byte) : (s.setReg x v).V = s.V.set x v := rfl
@[simp] theorem State.setReg_I (x : Reg) (v : Byte) : (s.setReg x v).I = s.I := rfl
@[simp] theorem State.setReg_pc (x : Reg) (v : Byte) : (s.setReg x v).pc = s.pc := rfl
@[simp] theorem State.setReg_sp (x : Reg) (v : Byte) : (s.setReg x v).sp = s.sp := rfl
@[simp] theorem State.setReg_stack (x : Reg) (v : Byte) : (s.setReg x v).stack = s.stack := rfl
@[simp] theorem State.setReg_DT (x : Reg) (v : Byte) : (s.setReg x v).DT = s.DT := rfl
@[simp] theorem State.setReg_ST (x : Reg) (v : Byte) : (s.setReg x v).ST = s.ST := rfl
@[simp] theorem State.setReg_M (x : Reg) (v : Byte) : (s.setReg x v).M = s.M := rfl
@[simp] theorem State.setReg_fb (x : Reg) (v : Byte) : (s.setReg x v).fb = s.fb := rfl
@[simp] theorem State.setReg_keys (x : Reg) (v : Byte) : (s.setReg x v).keys = s.keys := rfl
@[simp] theorem State.setReg_opcode (x : Reg) (v : Byte) : (s.setReg x v).opcode = s.opcode := rfl
@[simp] theorem State.setReg_run (x : Reg) (v : Byte) : (s.setReg x v).run = s.run := rfl
@[simp] theorem State.setReg_keyLatch (x : Reg) (v : Byte) : (s.setReg x v).keyLatch = s.keyLatch := rfl
@[simp] theorem State.setReg_fault (x : Reg) (v : Byte) : (s.setReg x v).fault = s.fault := rfl
@[simp] theorem State.setReg_advisory (x : Reg) (v : Byte) : (s.setReg x v).advisory = s.advisory := rfl
@[simp] theorem State.setReg_cycleCount (x : Reg) (v : Byte) : (s.setReg x v).cycleCount = s.cycleCount := rfl
@[simp] theorem State.setReg_draws (x : Reg) (v : Byte) : (s.setReg x v).draws = s.draws := rfl
@[simp] theorem State.setReg_outputs (x : Reg) (v : Byte) : (s.setReg x v).outputs = s.outputs := rfl
@[simp] theorem State.setReg_agenda (x : Reg) (v : Byte) : (s.setReg x v).agenda = s.agenda := rfl
@[simp] theorem State.setReg_justInitialized (x : Reg) (v : Byte) : (s.setReg x v).justInitialized = s.justInitialized := rfl

/-! ### State.advance -/

@[simp] theorem State.advance_V : (s.advance).V = s.V := rfl
@[simp] theorem State.advance_I : (s.advance).I = s.I := rfl
@[simp] theorem State.advance_pc : (s.advance).pc = s.pc + 2#16 := rfl
@[simp] theorem State.advance_sp : (s.advance).sp = s.sp := rfl
@[simp] theorem State.advance_stack : (s.advance).stack = s.stack := rfl
@[simp] theorem State.advance_DT : (s.advance).DT = s.DT := rfl
@[simp] theorem State.advance_ST : (s.advance).ST = s.ST := rfl
@[simp] theorem State.advance_M : (s.advance).M = s.M := rfl
@[simp] theorem State.advance_fb : (s.advance).fb = s.fb := rfl
@[simp] theorem State.advance_keys : (s.advance).keys = s.keys := rfl
@[simp] theorem State.advance_opcode : (s.advance).opcode = s.opcode := rfl
@[simp] theorem State.advance_run : (s.advance).run = s.run := rfl
@[simp] theorem State.advance_keyLatch : (s.advance).keyLatch = s.keyLatch := rfl
@[simp] theorem State.advance_fault : (s.advance).fault = s.fault := rfl
@[simp] theorem State.advance_advisory : (s.advance).advisory = s.advisory := rfl
@[simp] theorem State.advance_cycleCount : (s.advance).cycleCount = s.cycleCount := rfl
@[simp] theorem State.advance_draws : (s.advance).draws = s.draws := rfl
@[simp] theorem State.advance_outputs : (s.advance).outputs = s.outputs := rfl
@[simp] theorem State.advance_agenda : (s.advance).agenda = s.agenda := rfl
@[simp] theorem State.advance_justInitialized : (s.advance).justInitialized = s.justInitialized := rfl

/-! ### State.skip -/

@[simp] theorem State.skip_V : (s.skip).V = s.V := rfl
@[simp] theorem State.skip_I : (s.skip).I = s.I := rfl
@[simp] theorem State.skip_pc : (s.skip).pc = s.pc + 4#16 := rfl
@[simp] theorem State.skip_sp : (s.skip).sp = s.sp := rfl
@[simp] theorem State.skip_stack : (s.skip).stack = s.stack := rfl
@[simp] theorem State.skip_DT : (s.skip).DT = s.DT := rfl
@[simp] theorem State.skip_ST : (s.skip).ST = s.ST := rfl
@[simp] theorem State.skip_M : (s.skip).M = s.M := rfl
@[simp] theorem State.skip_fb : (s.skip).fb = s.fb := rfl
@[simp] theorem State.skip_keys : (s.skip).keys = s.keys := rfl
@[simp] theorem State.skip_opcode : (s.skip).opcode = s.opcode := rfl
@[simp] theorem State.skip_run : (s.skip).run = s.run := rfl
@[simp] theorem State.skip_keyLatch : (s.skip).keyLatch = s.keyLatch := rfl
@[simp] theorem State.skip_fault : (s.skip).fault = s.fault := rfl
@[simp] theorem State.skip_advisory : (s.skip).advisory = s.advisory := rfl
@[simp] theorem State.skip_cycleCount : (s.skip).cycleCount = s.cycleCount := rfl
@[simp] theorem State.skip_draws : (s.skip).draws = s.draws := rfl
@[simp] theorem State.skip_outputs : (s.skip).outputs = s.outputs := rfl
@[simp] theorem State.skip_agenda : (s.skip).agenda = s.agenda := rfl
@[simp] theorem State.skip_justInitialized : (s.skip).justInitialized = s.justInitialized := rfl

/-! ### State.takeFault -/

@[simp] theorem State.takeFault_V (c : Cause) (w : Word) (f : FaultInfo) : (s.takeFault c w f).V = s.V := rfl
@[simp] theorem State.takeFault_I (c : Cause) (w : Word) (f : FaultInfo) : (s.takeFault c w f).I = s.I := rfl
@[simp] theorem State.takeFault_pc (c : Cause) (w : Word) (f : FaultInfo) : (s.takeFault c w f).pc = s.pc := rfl
@[simp] theorem State.takeFault_sp (c : Cause) (w : Word) (f : FaultInfo) : (s.takeFault c w f).sp = s.sp := rfl
@[simp] theorem State.takeFault_stack (c : Cause) (w : Word) (f : FaultInfo) : (s.takeFault c w f).stack = s.stack := rfl
@[simp] theorem State.takeFault_DT (c : Cause) (w : Word) (f : FaultInfo) : (s.takeFault c w f).DT = s.DT := rfl
@[simp] theorem State.takeFault_ST (c : Cause) (w : Word) (f : FaultInfo) : (s.takeFault c w f).ST = s.ST := rfl
@[simp] theorem State.takeFault_M (c : Cause) (w : Word) (f : FaultInfo) : (s.takeFault c w f).M = s.M := rfl
@[simp] theorem State.takeFault_fb (c : Cause) (w : Word) (f : FaultInfo) : (s.takeFault c w f).fb = s.fb := rfl
@[simp] theorem State.takeFault_keys (c : Cause) (w : Word) (f : FaultInfo) : (s.takeFault c w f).keys = s.keys := rfl
@[simp] theorem State.takeFault_opcode (c : Cause) (w : Word) (f : FaultInfo) : (s.takeFault c w f).opcode = s.opcode := rfl
@[simp] theorem State.takeFault_run (c : Cause) (w : Word) (f : FaultInfo) : (s.takeFault c w f).run = .faulted := rfl
@[simp] theorem State.takeFault_keyLatch (c : Cause) (w : Word) (f : FaultInfo) : (s.takeFault c w f).keyLatch = s.keyLatch := rfl
@[simp] theorem State.takeFault_fault (c : Cause) (w : Word) (f : FaultInfo) : (s.takeFault c w f).fault = some { cause := c, pc := s.pc, word := w, info := f } := rfl
@[simp] theorem State.takeFault_advisory (c : Cause) (w : Word) (f : FaultInfo) : (s.takeFault c w f).advisory = s.advisory := rfl
@[simp] theorem State.takeFault_cycleCount (c : Cause) (w : Word) (f : FaultInfo) : (s.takeFault c w f).cycleCount = s.cycleCount := rfl
@[simp] theorem State.takeFault_draws (c : Cause) (w : Word) (f : FaultInfo) : (s.takeFault c w f).draws = s.draws := rfl
@[simp] theorem State.takeFault_outputs (c : Cause) (w : Word) (f : FaultInfo) : (s.takeFault c w f).outputs = s.outputs := rfl
@[simp] theorem State.takeFault_agenda (c : Cause) (w : Word) (f : FaultInfo) : (s.takeFault c w f).agenda = s.agenda := rfl
@[simp] theorem State.takeFault_justInitialized (c : Cause) (w : Word) (f : FaultInfo) : (s.takeFault c w f).justInitialized = s.justInitialized := rfl

/-! ### State.raise -/

@[simp] theorem State.raise_V (c : Cause) (f : FaultInfo) : (s.raise c f).V = s.V := rfl
@[simp] theorem State.raise_I (c : Cause) (f : FaultInfo) : (s.raise c f).I = s.I := rfl
@[simp] theorem State.raise_pc (c : Cause) (f : FaultInfo) : (s.raise c f).pc = s.pc := rfl
@[simp] theorem State.raise_sp (c : Cause) (f : FaultInfo) : (s.raise c f).sp = s.sp := rfl
@[simp] theorem State.raise_stack (c : Cause) (f : FaultInfo) : (s.raise c f).stack = s.stack := rfl
@[simp] theorem State.raise_DT (c : Cause) (f : FaultInfo) : (s.raise c f).DT = s.DT := rfl
@[simp] theorem State.raise_ST (c : Cause) (f : FaultInfo) : (s.raise c f).ST = s.ST := rfl
@[simp] theorem State.raise_M (c : Cause) (f : FaultInfo) : (s.raise c f).M = s.M := rfl
@[simp] theorem State.raise_fb (c : Cause) (f : FaultInfo) : (s.raise c f).fb = s.fb := rfl
@[simp] theorem State.raise_keys (c : Cause) (f : FaultInfo) : (s.raise c f).keys = s.keys := rfl
@[simp] theorem State.raise_opcode (c : Cause) (f : FaultInfo) : (s.raise c f).opcode = s.opcode := rfl
@[simp] theorem State.raise_run (c : Cause) (f : FaultInfo) : (s.raise c f).run = .faulted := rfl
@[simp] theorem State.raise_keyLatch (c : Cause) (f : FaultInfo) : (s.raise c f).keyLatch = s.keyLatch := rfl
@[simp] theorem State.raise_fault (c : Cause) (f : FaultInfo) : (s.raise c f).fault = some { cause := c, pc := s.pc, word := s.opcode, info := f } := rfl
@[simp] theorem State.raise_advisory (c : Cause) (f : FaultInfo) : (s.raise c f).advisory = s.advisory := rfl
@[simp] theorem State.raise_cycleCount (c : Cause) (f : FaultInfo) : (s.raise c f).cycleCount = s.cycleCount := rfl
@[simp] theorem State.raise_draws (c : Cause) (f : FaultInfo) : (s.raise c f).draws = s.draws := rfl
@[simp] theorem State.raise_outputs (c : Cause) (f : FaultInfo) : (s.raise c f).outputs = s.outputs := rfl
@[simp] theorem State.raise_agenda (c : Cause) (f : FaultInfo) : (s.raise c f).agenda = s.agenda := rfl
@[simp] theorem State.raise_justInitialized (c : Cause) (f : FaultInfo) : (s.raise c f).justInitialized = s.justInitialized := rfl

/-! ### State.raiseFetch -/

@[simp] theorem State.raiseFetch_V : (s.raiseFetch).V = s.V := rfl
@[simp] theorem State.raiseFetch_I : (s.raiseFetch).I = s.I := rfl
@[simp] theorem State.raiseFetch_pc : (s.raiseFetch).pc = s.pc := rfl
@[simp] theorem State.raiseFetch_sp : (s.raiseFetch).sp = s.sp := rfl
@[simp] theorem State.raiseFetch_stack : (s.raiseFetch).stack = s.stack := rfl
@[simp] theorem State.raiseFetch_DT : (s.raiseFetch).DT = s.DT := rfl
@[simp] theorem State.raiseFetch_ST : (s.raiseFetch).ST = s.ST := rfl
@[simp] theorem State.raiseFetch_M : (s.raiseFetch).M = s.M := rfl
@[simp] theorem State.raiseFetch_fb : (s.raiseFetch).fb = s.fb := rfl
@[simp] theorem State.raiseFetch_keys : (s.raiseFetch).keys = s.keys := rfl
@[simp] theorem State.raiseFetch_opcode : (s.raiseFetch).opcode = s.opcode := rfl
@[simp] theorem State.raiseFetch_run : (s.raiseFetch).run = .faulted := rfl
@[simp] theorem State.raiseFetch_keyLatch : (s.raiseFetch).keyLatch = s.keyLatch := rfl
@[simp] theorem State.raiseFetch_fault : (s.raiseFetch).fault = some { cause := .fetchOob, pc := s.pc, word := 0#16, info := .value s.pc.toNat } := rfl
@[simp] theorem State.raiseFetch_advisory : (s.raiseFetch).advisory = s.advisory := rfl
@[simp] theorem State.raiseFetch_cycleCount : (s.raiseFetch).cycleCount = s.cycleCount := rfl
@[simp] theorem State.raiseFetch_draws : (s.raiseFetch).draws = s.draws := rfl
@[simp] theorem State.raiseFetch_outputs : (s.raiseFetch).outputs = s.outputs := rfl
@[simp] theorem State.raiseFetch_agenda : (s.raiseFetch).agenda = s.agenda := rfl
@[simp] theorem State.raiseFetch_justInitialized : (s.raiseFetch).justInitialized = s.justInitialized := rfl

/-! ### State.publish -/

@[simp] theorem State.publish_V : (s.publish).V = s.V := rfl
@[simp] theorem State.publish_I : (s.publish).I = s.I := rfl
@[simp] theorem State.publish_pc : (s.publish).pc = s.pc := rfl
@[simp] theorem State.publish_sp : (s.publish).sp = s.sp := rfl
@[simp] theorem State.publish_stack : (s.publish).stack = s.stack := rfl
@[simp] theorem State.publish_DT : (s.publish).DT = s.DT := rfl
@[simp] theorem State.publish_ST : (s.publish).ST = s.ST := rfl
@[simp] theorem State.publish_M : (s.publish).M = s.M := rfl
@[simp] theorem State.publish_fb : (s.publish).fb = s.fb := rfl
@[simp] theorem State.publish_keys : (s.publish).keys = s.keys := rfl
@[simp] theorem State.publish_opcode : (s.publish).opcode = s.opcode := rfl
@[simp] theorem State.publish_run : (s.publish).run = s.run := rfl
@[simp] theorem State.publish_keyLatch : (s.publish).keyLatch = s.keyLatch := rfl
@[simp] theorem State.publish_fault : (s.publish).fault = s.fault := rfl
@[simp] theorem State.publish_advisory : (s.publish).advisory = s.advisory := rfl
@[simp] theorem State.publish_cycleCount : (s.publish).cycleCount = s.cycleCount := rfl
@[simp] theorem State.publish_draws : (s.publish).draws = s.draws := rfl
@[simp] theorem State.publish_outputs : (s.publish).outputs = s.outputs ++ [.publish s.fb] := rfl
@[simp] theorem State.publish_agenda : (s.publish).agenda = s.agenda := rfl
@[simp] theorem State.publish_justInitialized : (s.publish).justInitialized = s.justInitialized := rfl

/-! ### State.report -/

@[simp] theorem State.report_V (w a : Word) : (s.report w a).V = s.V := rfl
@[simp] theorem State.report_I (w a : Word) : (s.report w a).I = s.I := rfl
@[simp] theorem State.report_pc (w a : Word) : (s.report w a).pc = s.pc := rfl
@[simp] theorem State.report_sp (w a : Word) : (s.report w a).sp = s.sp := rfl
@[simp] theorem State.report_stack (w a : Word) : (s.report w a).stack = s.stack := rfl
@[simp] theorem State.report_DT (w a : Word) : (s.report w a).DT = s.DT := rfl
@[simp] theorem State.report_ST (w a : Word) : (s.report w a).ST = s.ST := rfl
@[simp] theorem State.report_M (w a : Word) : (s.report w a).M = s.M := rfl
@[simp] theorem State.report_fb (w a : Word) : (s.report w a).fb = s.fb := rfl
@[simp] theorem State.report_keys (w a : Word) : (s.report w a).keys = s.keys := rfl
@[simp] theorem State.report_opcode (w a : Word) : (s.report w a).opcode = s.opcode := rfl
@[simp] theorem State.report_run (w a : Word) : (s.report w a).run = s.run := rfl
@[simp] theorem State.report_keyLatch (w a : Word) : (s.report w a).keyLatch = s.keyLatch := rfl
@[simp] theorem State.report_fault (w a : Word) : (s.report w a).fault = s.fault := rfl
@[simp] theorem State.report_advisory (w a : Word) : (s.report w a).advisory = s.advisory ++ [{ cause := .unknownOpcode, word := w, addr := a }] := rfl
@[simp] theorem State.report_cycleCount (w a : Word) : (s.report w a).cycleCount = s.cycleCount := rfl
@[simp] theorem State.report_draws (w a : Word) : (s.report w a).draws = s.draws := rfl
@[simp] theorem State.report_outputs (w a : Word) : (s.report w a).outputs = s.outputs := rfl
@[simp] theorem State.report_agenda (w a : Word) : (s.report w a).agenda = s.agenda := rfl
@[simp] theorem State.report_justInitialized (w a : Word) : (s.report w a).justInitialized = s.justInitialized := rfl

/-! ### State.leaveInit -/

@[simp] theorem State.leaveInit_V : (s.leaveInit).V = s.V := rfl
@[simp] theorem State.leaveInit_I : (s.leaveInit).I = s.I := rfl
@[simp] theorem State.leaveInit_pc : (s.leaveInit).pc = s.pc := rfl
@[simp] theorem State.leaveInit_sp : (s.leaveInit).sp = s.sp := rfl
@[simp] theorem State.leaveInit_stack : (s.leaveInit).stack = s.stack := rfl
@[simp] theorem State.leaveInit_DT : (s.leaveInit).DT = s.DT := rfl
@[simp] theorem State.leaveInit_ST : (s.leaveInit).ST = s.ST := rfl
@[simp] theorem State.leaveInit_M : (s.leaveInit).M = s.M := rfl
@[simp] theorem State.leaveInit_fb : (s.leaveInit).fb = s.fb := rfl
@[simp] theorem State.leaveInit_keys : (s.leaveInit).keys = s.keys := rfl
@[simp] theorem State.leaveInit_opcode : (s.leaveInit).opcode = s.opcode := rfl
@[simp] theorem State.leaveInit_run : (s.leaveInit).run = s.run := rfl
@[simp] theorem State.leaveInit_keyLatch : (s.leaveInit).keyLatch = s.keyLatch := rfl
@[simp] theorem State.leaveInit_fault : (s.leaveInit).fault = s.fault := rfl
@[simp] theorem State.leaveInit_advisory : (s.leaveInit).advisory = s.advisory := rfl
@[simp] theorem State.leaveInit_cycleCount : (s.leaveInit).cycleCount = s.cycleCount := rfl
@[simp] theorem State.leaveInit_draws : (s.leaveInit).draws = s.draws := rfl
@[simp] theorem State.leaveInit_outputs : (s.leaveInit).outputs = s.outputs := rfl
@[simp] theorem State.leaveInit_agenda : (s.leaveInit).agenda = s.agenda := rfl
@[simp] theorem State.leaveInit_justInitialized : (s.leaveInit).justInitialized = false := rfl

/-! ### State.fetched -/

@[simp] theorem State.fetched_V (w : Word) (rest : List Event) : (s.fetched w rest).V = s.V := rfl
@[simp] theorem State.fetched_I (w : Word) (rest : List Event) : (s.fetched w rest).I = s.I := rfl
@[simp] theorem State.fetched_pc (w : Word) (rest : List Event) : (s.fetched w rest).pc = s.pc := rfl
@[simp] theorem State.fetched_sp (w : Word) (rest : List Event) : (s.fetched w rest).sp = s.sp := rfl
@[simp] theorem State.fetched_stack (w : Word) (rest : List Event) : (s.fetched w rest).stack = s.stack := rfl
@[simp] theorem State.fetched_DT (w : Word) (rest : List Event) : (s.fetched w rest).DT = s.DT := rfl
@[simp] theorem State.fetched_ST (w : Word) (rest : List Event) : (s.fetched w rest).ST = s.ST := rfl
@[simp] theorem State.fetched_M (w : Word) (rest : List Event) : (s.fetched w rest).M = s.M := rfl
@[simp] theorem State.fetched_fb (w : Word) (rest : List Event) : (s.fetched w rest).fb = s.fb := rfl
@[simp] theorem State.fetched_keys (w : Word) (rest : List Event) : (s.fetched w rest).keys = s.keys := rfl
@[simp] theorem State.fetched_opcode (w : Word) (rest : List Event) : (s.fetched w rest).opcode = w := rfl
@[simp] theorem State.fetched_run (w : Word) (rest : List Event) : (s.fetched w rest).run = s.run := rfl
@[simp] theorem State.fetched_keyLatch (w : Word) (rest : List Event) : (s.fetched w rest).keyLatch = s.keyLatch := rfl
@[simp] theorem State.fetched_fault (w : Word) (rest : List Event) : (s.fetched w rest).fault = s.fault := rfl
@[simp] theorem State.fetched_advisory (w : Word) (rest : List Event) : (s.fetched w rest).advisory = s.advisory := rfl
@[simp] theorem State.fetched_cycleCount (w : Word) (rest : List Event) : (s.fetched w rest).cycleCount = s.cycleCount := rfl
@[simp] theorem State.fetched_draws (w : Word) (rest : List Event) : (s.fetched w rest).draws = s.draws := rfl
@[simp] theorem State.fetched_outputs (w : Word) (rest : List Event) : (s.fetched w rest).outputs = s.outputs := rfl
@[simp] theorem State.fetched_agenda (w : Word) (rest : List Event) : (s.fetched w rest).agenda = rest := rfl
@[simp] theorem State.fetched_justInitialized (w : Word) (rest : List Event) : (s.fetched w rest).justInitialized = false := rfl

/-! ### State.timerTick -/

@[simp] theorem State.timerTick_V : (s.timerTick).V = s.V := rfl
@[simp] theorem State.timerTick_I : (s.timerTick).I = s.I := rfl
@[simp] theorem State.timerTick_pc : (s.timerTick).pc = s.pc := rfl
@[simp] theorem State.timerTick_sp : (s.timerTick).sp = s.sp := rfl
@[simp] theorem State.timerTick_stack : (s.timerTick).stack = s.stack := rfl
@[simp] theorem State.timerTick_DT : (s.timerTick).DT = countDown s.DT := rfl
@[simp] theorem State.timerTick_ST : (s.timerTick).ST = countDown s.ST := rfl
@[simp] theorem State.timerTick_M : (s.timerTick).M = s.M := rfl
@[simp] theorem State.timerTick_fb : (s.timerTick).fb = s.fb := rfl
@[simp] theorem State.timerTick_keys : (s.timerTick).keys = s.keys := rfl
@[simp] theorem State.timerTick_opcode : (s.timerTick).opcode = s.opcode := rfl
@[simp] theorem State.timerTick_run : (s.timerTick).run = s.run := rfl
@[simp] theorem State.timerTick_keyLatch : (s.timerTick).keyLatch = s.keyLatch := rfl
@[simp] theorem State.timerTick_fault : (s.timerTick).fault = s.fault := rfl
@[simp] theorem State.timerTick_advisory : (s.timerTick).advisory = s.advisory := rfl
@[simp] theorem State.timerTick_cycleCount : (s.timerTick).cycleCount = s.cycleCount := rfl
@[simp] theorem State.timerTick_draws : (s.timerTick).draws = s.draws := rfl
@[simp] theorem State.timerTick_outputs : (s.timerTick).outputs = s.outputs := rfl
@[simp] theorem State.timerTick_agenda : (s.timerTick).agenda = s.agenda := rfl
@[simp] theorem State.timerTick_justInitialized : (s.timerTick).justInitialized = s.justInitialized := rfl

/-! ### State.initCore -/

@[simp] theorem State.initCore_V : (s.initCore).V = Vector.replicate 16 0#8 := rfl
@[simp] theorem State.initCore_I : (s.initCore).I = 0#16 := rfl
@[simp] theorem State.initCore_pc : (s.initCore).pc = 512#16 := rfl
@[simp] theorem State.initCore_sp : (s.initCore).sp = 0 := rfl
@[simp] theorem State.initCore_stack : (s.initCore).stack = Vector.replicate 16 0#16 := rfl
@[simp] theorem State.initCore_DT : (s.initCore).DT = 0#8 := rfl
@[simp] theorem State.initCore_ST : (s.initCore).ST = 0#8 := rfl
@[simp] theorem State.initCore_M : (s.initCore).M = s.M.writeBytes 0 font := by
  simp only [State.initCore, State.publish, Config.fontBase]
@[simp] theorem State.initCore_fb : (s.initCore).fb = blankScreen := rfl
@[simp] theorem State.initCore_keys : (s.initCore).keys = s.keys := rfl
@[simp] theorem State.initCore_opcode : (s.initCore).opcode = 0#16 := rfl
@[simp] theorem State.initCore_run : (s.initCore).run = .running := rfl
@[simp] theorem State.initCore_keyLatch : (s.initCore).keyLatch = none := rfl
@[simp] theorem State.initCore_fault : (s.initCore).fault = none := rfl
@[simp] theorem State.initCore_advisory : (s.initCore).advisory = [] := rfl
@[simp] theorem State.initCore_cycleCount : (s.initCore).cycleCount = 0 := rfl
@[simp] theorem State.initCore_draws : (s.initCore).draws = s.draws := rfl
@[simp] theorem State.initCore_outputs : (s.initCore).outputs = s.outputs ++ [.publish blankScreen] := rfl
@[simp] theorem State.initCore_agenda : (s.initCore).agenda = s.agenda := rfl
@[simp] theorem State.initCore_justInitialized : (s.initCore).justInitialized = true := rfl

/-! ### State.retire -/

@[simp] theorem State.retire_V : (s.retire).V = s.V := by
  unfold State.retire; split <;> rfl
@[simp] theorem State.retire_I : (s.retire).I = s.I := by
  unfold State.retire; split <;> rfl
@[simp] theorem State.retire_pc : (s.retire).pc = s.pc := by
  unfold State.retire; split <;> rfl
@[simp] theorem State.retire_sp : (s.retire).sp = s.sp := by
  unfold State.retire; split <;> rfl
@[simp] theorem State.retire_stack : (s.retire).stack = s.stack := by
  unfold State.retire; split <;> rfl
@[simp] theorem State.retire_DT : (s.retire).DT = s.DT := by
  unfold State.retire; split <;> rfl
@[simp] theorem State.retire_ST : (s.retire).ST = s.ST := by
  unfold State.retire; split <;> rfl
@[simp] theorem State.retire_M : (s.retire).M = s.M := by
  unfold State.retire; split <;> rfl
@[simp] theorem State.retire_fb : (s.retire).fb = s.fb := by
  unfold State.retire; split <;> rfl
@[simp] theorem State.retire_keys : (s.retire).keys = s.keys := by
  unfold State.retire; split <;> rfl
@[simp] theorem State.retire_opcode : (s.retire).opcode = s.opcode := by
  unfold State.retire; split <;> rfl
@[simp] theorem State.retire_run : (s.retire).run = s.run := by
  unfold State.retire; split <;> rfl
@[simp] theorem State.retire_keyLatch : (s.retire).keyLatch = s.keyLatch := by
  unfold State.retire; split <;> rfl
@[simp] theorem State.retire_fault : (s.retire).fault = s.fault := by
  unfold State.retire; split <;> rfl
@[simp] theorem State.retire_advisory : (s.retire).advisory = s.advisory := by
  unfold State.retire; split <;> rfl
@[simp] theorem State.retire_cycleCount : (s.retire).cycleCount = if s.run = .faulted then s.cycleCount else s.cycleCount + 1 := by
  unfold State.retire; split <;> rfl
@[simp] theorem State.retire_draws : (s.retire).draws = s.draws := by
  unfold State.retire; split <;> rfl
@[simp] theorem State.retire_outputs : (s.retire).outputs = s.outputs := by
  unfold State.retire; split <;> rfl
@[simp] theorem State.retire_agenda : (s.retire).agenda = s.agenda := by
  unfold State.retire; split <;> rfl
@[simp] theorem State.retire_justInitialized : (s.retire).justInitialized = s.justInitialized := by
  unfold State.retire; split <;> rfl

/-! ### State.release -/

@[simp] theorem State.release_V (k : Key) : (s.release k).V = s.V := rfl
@[simp] theorem State.release_I (k : Key) : (s.release k).I = s.I := rfl
@[simp] theorem State.release_pc (k : Key) : (s.release k).pc = s.pc := rfl
@[simp] theorem State.release_sp (k : Key) : (s.release k).sp = s.sp := rfl
@[simp] theorem State.release_stack (k : Key) : (s.release k).stack = s.stack := rfl
@[simp] theorem State.release_DT (k : Key) : (s.release k).DT = s.DT := rfl
@[simp] theorem State.release_ST (k : Key) : (s.release k).ST = s.ST := rfl
@[simp] theorem State.release_M (k : Key) : (s.release k).M = s.M := rfl
@[simp] theorem State.release_fb (k : Key) : (s.release k).fb = s.fb := rfl
@[simp] theorem State.release_keys (k : Key) : (s.release k).keys = s.keys.set k false := rfl
@[simp] theorem State.release_opcode (k : Key) : (s.release k).opcode = s.opcode := rfl
@[simp] theorem State.release_run (k : Key) : (s.release k).run = s.run := rfl
@[simp] theorem State.release_keyLatch (k : Key) : (s.release k).keyLatch = s.keyLatch := rfl
@[simp] theorem State.release_fault (k : Key) : (s.release k).fault = s.fault := rfl
@[simp] theorem State.release_advisory (k : Key) : (s.release k).advisory = s.advisory := rfl
@[simp] theorem State.release_cycleCount (k : Key) : (s.release k).cycleCount = s.cycleCount := rfl
@[simp] theorem State.release_draws (k : Key) : (s.release k).draws = s.draws := rfl
@[simp] theorem State.release_outputs (k : Key) : (s.release k).outputs = s.outputs := rfl
@[simp] theorem State.release_agenda (k : Key) : (s.release k).agenda = s.agenda := rfl
@[simp] theorem State.release_justInitialized (k : Key) : (s.release k).justInitialized = s.justInitialized := rfl

end Sys2Proof.Machine
end

