-- ==== Sys2Proof/Laws/Ops.lean ====
section
/-! SUPPORT. What each shared operation does, said once: registers, push and pop, the fetch, the range check, the turn of an
agent and the CPU's step. -/

namespace Sys2Proof.Machine

/-! ### Registers -/

theorem State.reg_setReg (s : State) (x y : Reg) (v : Byte) :
    (s.setReg x v).reg y = if x = y then v else s.reg y := by
  simp [State.reg, State.setReg, Vector.getElem_set, Fin.ext_iff]

@[simp] theorem State.reg_setReg_same (s : State) (x : Reg) (v : Byte) : (s.setReg x v).reg x = v := by
  simp [State.reg_setReg]

theorem State.reg_setReg_other (s : State) {x y : Reg} (v : Byte) (h : x ≠ y) : (s.setReg x v).reg y = s.reg y := by
  simp [State.reg_setReg, h]

/-- A skip changes pc only, by 4 or by 2 (R95). -/
theorem State.skipIf_eq (s : State) (b : Bool) : s.skipIf b = { s with pc := if b then s.pc + 4#16 else s.pc + 2#16 } := by
  cases b <;> rfl

/-- The end of a flagged instruction: the result, the flag over it, pc (R170). -/
theorem State.finishFlagged_eq (s : State) (x : Reg) (r : Byte) (f : Bool) :
    s.finishFlagged x r f = { s with V := (s.V.set x r).set VF (flagByte f), pc := s.pc + 2#16 } := rfl

/-! ### Call stack (R33) -/

theorem State.push_of_lt (s : State) (v : Word) (h : s.sp.val < 16) :
    s.push v = some { s with stack := s.stack.set s.sp.val v, sp := ⟨s.sp.val + 1, Nat.succ_lt_succ h⟩ } := by
  simp [State.push, h]

theorem State.push_of_full (s : State) (v : Word) (h : s.sp.val = 16) : s.push v = none := by
  simp [State.push, h]

theorem State.pop_of_pos (s : State) (h : 0 < s.sp.val) :
    s.pop = some (s.stack[s.sp.val - 1], { s with sp := ⟨s.sp.val - 1, by omega⟩ }) := by
  simp [State.pop, h]

theorem State.pop_of_empty (s : State) (h : s.sp.val = 0) : s.pop = none := by
  simp [State.pop, h]

/-! ### Fetch (R67, R68) -/

theorem State.fetch_of_le (s : State) (h : s.pc.toNat ≤ 4094) :
    s.fetch = some (composeWord (s.M.read s.pc.toNat) (s.M.read (s.pc.toNat + 1))) := by
  have : ¬ s.pc.toNat > 4094 := by omega
  simp [State.fetch, this]

theorem State.fetch_of_gt (s : State) (h : s.pc.toNat > 4094) : s.fetch = none := by
  simp [State.fetch, h]

theorem State.fetch_eq_some {s : State} {w : Word} (h : s.fetch = some w) : s.pc.toNat ≤ 4094 := by
  by_contra hgt
  rw [State.fetch_of_gt s (by omega)] at h
  cases h

/-! ### Range check (R71) -/

theorem rangeOob_eq_true {s : State} {n : Nat} : rangeOob s n = true ↔ 0 < n ∧ s.I.toNat + n - 1 > 4095 := by
  simp [rangeOob]

/-- The range check answers a next state: the fault, or what follows. -/
theorem withRange_cases {n : Nat} {s go t : State} (h : withRange n s go = .next t) :
    (rangeOob s n = true ∧ t = s.raise .memOob (.value (firstOob s))) ∨ (rangeOob s n = false ∧ t = go) := by
  cases hr : rangeOob s n with
  | true => simp [withRange, hr] at h; simp [h]
  | false => simp [withRange, hr] at h; simp [h]

theorem withRange_of_oob {n : Nat} {s : State} (go : State) (h : rangeOob s n = true) :
    withRange n s go = .next (s.raise .memOob (.value (firstOob s))) := by
  simp [withRange, h]

theorem withRange_of_in {n : Nat} {s : State} (go : State) (h : rangeOob s n = false) : withRange n s go = .next go := by
  simp [withRange, h]

/-! ### Turns and the CPU's step (R94) -/

/-- On the CPU's turn a step is the CPU's step past that turn. -/
theorem step_of_cpuTurn {s : State} {rest : List Event} (h : s.CpuTurn rest) :
    step s = cpuStep { s with agenda := rest, justInitialized := false } := by
  unfold State.CpuTurn at h
  simp only [step, h, turn, State.leaveInit]

/-- On another agent's turn a step is that agent's, past its turn. -/
theorem step_of_agenda {s : State} {e : Event} {rest : List Event} (h : s.agenda = e :: rest) :
    step s = turn e { s with agenda := rest } := by
  simp only [step, State.nextTurn, h]

/-- A load directly after Initialize is performed (R306). -/
theorem turn_load {s : State} (rom : List Byte) (h : s.justInitialized = true) :
    turn (.load rom) s = .next (s.leaveInit.loadProgram rom) := by
  simp only [turn, h, if_true]

theorem State.cpuTurn_iff {s : State} {rest : List Event} :
    s.CpuTurn rest ↔ (s.agenda = [] ∧ rest = []) ∨ s.agenda = .cpu :: rest := by
  unfold State.CpuTurn State.nextTurn
  cases h : s.agenda with
  | nil => simp [eq_comm]
  | cons e r => simp

theorem cpuStep_of_running {s : State} (h : s.run = .running) : cpuStep s = cpuRunning s := by
  simp only [cpuStep, h]

theorem cpuStep_of_latched {s : State} {x : Reg} {k : Key} (h : s.run = .awaitingKey x) (hk : s.keyLatch = some k) :
    cpuStep s = .next (completeKeyWait x k s) := by
  simp only [cpuStep, h, hk]

theorem cpuStep_of_held {s : State} {x : Reg} (h : s.run = .awaitingKey x) (hk : s.keyLatch = none) :
    cpuStep s = .next s := by
  simp only [cpuStep, h, hk]

theorem cpuStep_of_faulted {s : State} (h : s.run = .faulted) : cpuStep s = .fault (.cpuFaulted s.fault) := by
  simp only [cpuStep, h]

theorem cpuRunning_of_instr {s : State} {w : Word} {i : Instr} (hf : s.fetch = some w) (hd : decodeWord w = some i) :
    cpuRunning s = retireOutcome (exec i { s with opcode := w }) := by
  simp only [cpuRunning, hf, hd]

theorem cpuRunning_of_unknown {s : State} {w : Word} (hf : s.fetch = some w) (hd : decodeWord w = none) :
    cpuRunning s = .next (State.retire ({ s with opcode := w }.report w s.pc).advance) := by
  simp only [cpuRunning, hf, hd]

theorem cpuRunning_of_oob {s : State} (h : s.pc.toNat > 4094) : cpuRunning s = .next s.raiseFetch := by
  simp only [cpuRunning, s.fetch_of_gt h]

/-- The three ways a running CPU steps: the fetch faults, the word is unknown, or its instruction executes. -/
theorem cpuRunning_cases (s : State) :
    (s.pc.toNat > 4094 ∧ cpuRunning s = .next s.raiseFetch) ∨
    (∃ w, s.fetch = some w ∧ decodeWord w = none ∧
      cpuRunning s = .next (State.retire ({ s with opcode := w }.report w s.pc).advance)) ∨
    (∃ w i, s.fetch = some w ∧ decodeWord w = some i ∧
      cpuRunning s = retireOutcome (exec i { s with opcode := w })) := by
  by_cases h : s.pc.toNat > 4094
  · exact .inl ⟨h, cpuRunning_of_oob h⟩
  · obtain ⟨w, hw⟩ : ∃ w, s.fetch = some w := ⟨_, s.fetch_of_le (by omega)⟩
    cases hd : decodeWord w with
    | none => exact .inr (.inl ⟨w, hw, hd, cpuRunning_of_unknown hw hd⟩)
    | some i => exact .inr (.inr ⟨w, i, hw, hd, cpuRunning_of_instr hw hd⟩)

/-- Retiring writes `cycle_count` and nothing else. -/
theorem State.retire_eq (t : State) :
    t.retire = { t with cycleCount := if t.run = .faulted then t.cycleCount else t.cycleCount + 1 } := by
  unfold State.retire
  split <;> rfl

end Sys2Proof.Machine
end

