-- ==== Sys2Proof/Laws/PerInstr.lean ====
section
/-! SUPPORT. Facts about every instruction as syntax, one lemma per constructor. -/

namespace Sys2Proof.Laws

/-! ### TableRow: an encoded instruction has the fixed bits of its row of spec/opcode_table.json -/

/-- The fixed fields of an instruction's row of spec/opcode_table.json: high bit, low bit, value. -/
def TableRow.fixed : Instr → List (Nat × Nat × Nat)
  | .cls => [(15, 0, 224)]
  | .ret => [(15, 0, 238)]
  | .jp _ => [(15, 12, 1)]
  | .call _ => [(15, 12, 2)]
  | .seImm _ _ => [(15, 12, 3)]
  | .sneImm _ _ => [(15, 12, 4)]
  | .seReg _ _ => [(3, 0, 0), (15, 12, 5)]
  | .ldImm _ _ => [(15, 12, 6)]
  | .addImm _ _ => [(15, 12, 7)]
  | .ldReg _ _ => [(3, 0, 0), (15, 12, 8)]
  | .or _ _ => [(3, 0, 1), (15, 12, 8)]
  | .and _ _ => [(3, 0, 2), (15, 12, 8)]
  | .xor _ _ => [(3, 0, 3), (15, 12, 8)]
  | .addReg _ _ => [(3, 0, 4), (15, 12, 8)]
  | .sub _ _ => [(3, 0, 5), (15, 12, 8)]
  | .shr _ _ => [(3, 0, 6), (15, 12, 8)]
  | .subn _ _ => [(3, 0, 7), (15, 12, 8)]
  | .shl _ _ => [(3, 0, 14), (15, 12, 8)]
  | .sneReg _ _ => [(3, 0, 0), (15, 12, 9)]
  | .ldI _ => [(15, 12, 10)]
  | .jpV0 _ => [(15, 12, 11)]
  | .rnd _ _ => [(15, 12, 12)]
  | .drw _ _ _ => [(15, 12, 13)]
  | .skp _ => [(7, 0, 158), (15, 12, 14)]
  | .sknp _ => [(7, 0, 161), (15, 12, 14)]
  | .ldVDT _ => [(7, 0, 7), (15, 12, 15)]
  | .ldVK _ => [(7, 0, 10), (15, 12, 15)]
  | .ldDTV _ => [(7, 0, 21), (15, 12, 15)]
  | .ldSTV _ => [(7, 0, 24), (15, 12, 15)]
  | .addI _ => [(7, 0, 30), (15, 12, 15)]
  | .ldF _ => [(7, 0, 41), (15, 12, 15)]
  | .ldB _ => [(7, 0, 51), (15, 12, 15)]
  | .ldMemV _ => [(7, 0, 85), (15, 12, 15)]
  | .ldVMem _ => [(7, 0, 101), (15, 12, 15)]

/-- The word of `i` has every fixed field of its row, at the row's value. -/
def TableRow.Statement (i : Instr) : Prop :=
  ∀ f ∈ TableRow.fixed i, (encode i).toNat / 2 ^ f.2.1 % 2 ^ (f.1 - f.2.1 + 1) = f.2.2

theorem TableRow.ofA (f : BitVec 4) (nnn : Addr12) : (encA f nnn).toNat / 2 ^ 12 % 2 ^ (15 - 12 + 1) = f.toNat := by
  have := nnn.isLt
  have := f.isLt
  rw [encA_toNat]
  omega

theorem TableRow.ofXI (f : BitVec 4) (x : Reg) (nn : Byte) :
    (encXI f x nn).toNat / 2 ^ 12 % 2 ^ (15 - 12 + 1) = f.toNat ∧ (encXI f x nn).toNat / 2 ^ 0 % 2 ^ (7 - 0 + 1) = nn.toNat := by
  have := nn.isLt
  have := f.isLt
  have := x.isLt
  rw [encXI_toNat]
  omega

theorem TableRow.ofXYN (f : BitVec 4) (x y : Reg) (g : BitVec 4) :
    (encXYN f x y g).toNat / 2 ^ 12 % 2 ^ (15 - 12 + 1) = f.toNat ∧ (encXYN f x y g).toNat / 2 ^ 0 % 2 ^ (3 - 0 + 1) = g.toNat := by
  have := g.isLt
  have := f.isLt
  have := x.isLt
  have := y.isLt
  rw [encXYN_toNat]
  omega

theorem TableRow.cls : TableRow.Statement .cls := by
  simp [TableRow.Statement, TableRow.fixed, encode]

theorem TableRow.ret : TableRow.Statement .ret := by
  simp [TableRow.Statement, TableRow.fixed, encode]

theorem TableRow.jp (nnn : Addr12) : TableRow.Statement (.jp nnn) := by
  simpa [TableRow.Statement, TableRow.fixed, encode] using TableRow.ofA 0x1#4 nnn

theorem TableRow.call (nnn : Addr12) : TableRow.Statement (.call nnn) := by
  simpa [TableRow.Statement, TableRow.fixed, encode] using TableRow.ofA 0x2#4 nnn

theorem TableRow.seImm (x : Reg) (nn : Byte) : TableRow.Statement (.seImm x nn) := by
  simpa [TableRow.Statement, TableRow.fixed, encode] using (TableRow.ofXI 0x3#4 x nn).1

theorem TableRow.sneImm (x : Reg) (nn : Byte) : TableRow.Statement (.sneImm x nn) := by
  simpa [TableRow.Statement, TableRow.fixed, encode] using (TableRow.ofXI 0x4#4 x nn).1

theorem TableRow.seReg (x y : Reg) : TableRow.Statement (.seReg x y) := by
  simpa [TableRow.Statement, TableRow.fixed, encode, and_comm] using TableRow.ofXYN 0x5#4 x y 0x0#4

theorem TableRow.ldImm (x : Reg) (nn : Byte) : TableRow.Statement (.ldImm x nn) := by
  simpa [TableRow.Statement, TableRow.fixed, encode] using (TableRow.ofXI 0x6#4 x nn).1

theorem TableRow.addImm (x : Reg) (nn : Byte) : TableRow.Statement (.addImm x nn) := by
  simpa [TableRow.Statement, TableRow.fixed, encode] using (TableRow.ofXI 0x7#4 x nn).1

theorem TableRow.ldReg (x y : Reg) : TableRow.Statement (.ldReg x y) := by
  simpa [TableRow.Statement, TableRow.fixed, encode, and_comm] using TableRow.ofXYN 0x8#4 x y 0x0#4

theorem TableRow.or (x y : Reg) : TableRow.Statement (.or x y) := by
  simpa [TableRow.Statement, TableRow.fixed, encode, and_comm] using TableRow.ofXYN 0x8#4 x y 0x1#4

theorem TableRow.and (x y : Reg) : TableRow.Statement (.and x y) := by
  simpa [TableRow.Statement, TableRow.fixed, encode, and_comm] using TableRow.ofXYN 0x8#4 x y 0x2#4

theorem TableRow.xor (x y : Reg) : TableRow.Statement (.xor x y) := by
  simpa [TableRow.Statement, TableRow.fixed, encode, and_comm] using TableRow.ofXYN 0x8#4 x y 0x3#4

theorem TableRow.addReg (x y : Reg) : TableRow.Statement (.addReg x y) := by
  simpa [TableRow.Statement, TableRow.fixed, encode, and_comm] using TableRow.ofXYN 0x8#4 x y 0x4#4

theorem TableRow.sub (x y : Reg) : TableRow.Statement (.sub x y) := by
  simpa [TableRow.Statement, TableRow.fixed, encode, and_comm] using TableRow.ofXYN 0x8#4 x y 0x5#4

theorem TableRow.shr (x y : Reg) : TableRow.Statement (.shr x y) := by
  simpa [TableRow.Statement, TableRow.fixed, encode, and_comm] using TableRow.ofXYN 0x8#4 x y 0x6#4

theorem TableRow.subn (x y : Reg) : TableRow.Statement (.subn x y) := by
  simpa [TableRow.Statement, TableRow.fixed, encode, and_comm] using TableRow.ofXYN 0x8#4 x y 0x7#4

theorem TableRow.shl (x y : Reg) : TableRow.Statement (.shl x y) := by
  simpa [TableRow.Statement, TableRow.fixed, encode, and_comm] using TableRow.ofXYN 0x8#4 x y 0xE#4

theorem TableRow.sneReg (x y : Reg) : TableRow.Statement (.sneReg x y) := by
  simpa [TableRow.Statement, TableRow.fixed, encode, and_comm] using TableRow.ofXYN 0x9#4 x y 0x0#4

theorem TableRow.ldI (nnn : Addr12) : TableRow.Statement (.ldI nnn) := by
  simpa [TableRow.Statement, TableRow.fixed, encode] using TableRow.ofA 0xA#4 nnn

theorem TableRow.jpV0 (nnn : Addr12) : TableRow.Statement (.jpV0 nnn) := by
  simpa [TableRow.Statement, TableRow.fixed, encode] using TableRow.ofA 0xB#4 nnn

theorem TableRow.rnd (x : Reg) (nn : Byte) : TableRow.Statement (.rnd x nn) := by
  simpa [TableRow.Statement, TableRow.fixed, encode] using (TableRow.ofXI 0xC#4 x nn).1

theorem TableRow.drw (x y : Reg) (n : Nat) : TableRow.Statement (.drw x y n) := by
  simpa [TableRow.Statement, TableRow.fixed, encode] using (TableRow.ofXYN 0xD#4 x y (BitVec.ofNat 4 n)).1

theorem TableRow.skp (x : Reg) : TableRow.Statement (.skp x) := by
  simpa [TableRow.Statement, TableRow.fixed, encode, and_comm] using TableRow.ofXI 0xE#4 x 0x9E#8

theorem TableRow.sknp (x : Reg) : TableRow.Statement (.sknp x) := by
  simpa [TableRow.Statement, TableRow.fixed, encode, and_comm] using TableRow.ofXI 0xE#4 x 0xA1#8

theorem TableRow.ldVDT (x : Reg) : TableRow.Statement (.ldVDT x) := by
  simpa [TableRow.Statement, TableRow.fixed, encode, and_comm] using TableRow.ofXI 0xF#4 x 0x07#8

theorem TableRow.ldVK (x : Reg) : TableRow.Statement (.ldVK x) := by
  simpa [TableRow.Statement, TableRow.fixed, encode, and_comm] using TableRow.ofXI 0xF#4 x 0x0A#8

theorem TableRow.ldDTV (x : Reg) : TableRow.Statement (.ldDTV x) := by
  simpa [TableRow.Statement, TableRow.fixed, encode, and_comm] using TableRow.ofXI 0xF#4 x 0x15#8

theorem TableRow.ldSTV (x : Reg) : TableRow.Statement (.ldSTV x) := by
  simpa [TableRow.Statement, TableRow.fixed, encode, and_comm] using TableRow.ofXI 0xF#4 x 0x18#8

theorem TableRow.addI (x : Reg) : TableRow.Statement (.addI x) := by
  simpa [TableRow.Statement, TableRow.fixed, encode, and_comm] using TableRow.ofXI 0xF#4 x 0x1E#8

theorem TableRow.ldF (x : Reg) : TableRow.Statement (.ldF x) := by
  simpa [TableRow.Statement, TableRow.fixed, encode, and_comm] using TableRow.ofXI 0xF#4 x 0x29#8

theorem TableRow.ldB (x : Reg) : TableRow.Statement (.ldB x) := by
  simpa [TableRow.Statement, TableRow.fixed, encode, and_comm] using TableRow.ofXI 0xF#4 x 0x33#8

theorem TableRow.ldMemV (x : Reg) : TableRow.Statement (.ldMemV x) := by
  simpa [TableRow.Statement, TableRow.fixed, encode, and_comm] using TableRow.ofXI 0xF#4 x 0x55#8

theorem TableRow.ldVMem (x : Reg) : TableRow.Statement (.ldVMem x) := by
  simpa [TableRow.Statement, TableRow.fixed, encode, and_comm] using TableRow.ofXI 0xF#4 x 0x65#8

end Sys2Proof.Laws
end

