-- ==== Sys2Proof/Laws/Steps.lean ====
section
/-! SUPPORT. Everything a step can do, and everything an instruction can do to the run state, said once; and what the list
operands of Fx55 and Dxyn hold. -/

namespace Sys2Proof.Machine

/-! ### List operands -/

/-- How many registers Fx55 stores (R204). -/
theorem regsUpTo_length (s : State) (x : Reg) : (regsUpTo s x).length = x.val + 1 := by
  simp [regsUpTo]

/-- Register `i` is byte `i` of what Fx55 stores (R204). -/
theorem regsUpTo_getD (s : State) (x i : Reg) (h : i ≤ x) : (regsUpTo s x).getD i.val 0#8 = s.V[i] := by
  have : i.val < x.val + 1 := Nat.lt_succ_of_le h
  simp [regsUpTo, List.getD, this]

/-- The pixels of a drawn sprite are those that a set sprite bit covers (R121, R122). -/
theorem mem_spriteOf {s : State} {x y : Reg} {n col row : Nat} :
    (col, row) ∈ spriteOf x y n s ↔ SpriteCovers s x y n col row := by
  unfold spriteOf SpriteCovers
  rw [mem_setPixels]
  simp only [bytesAtI, List.length_map, List.length_range, effAddr, State.reg, Prod.mk.injEq]
  constructor
  · rintro ⟨r, c, hr, hc, hb, rfl, rfl⟩
    refine ⟨by omega, by omega, by omega, by omega, ?_⟩
    rw [Nat.add_sub_cancel_left, Nat.add_sub_cancel_left]
    simpa [List.getD, hr] using hb
  · rintro ⟨h1, h2, h3, h4, hb⟩
    refine ⟨row - s.V[y].toNat, col - s.V[x].toNat, by omega, by omega, ?_, by omega, by omega⟩
    have : row - s.V[y].toNat < n := by omega
    simp only [List.getD, List.getElem?_map, List.getElem?_range this, Option.map_some, Option.getD_some]
    exact hb
/-! ### Instructions -/

/-- A range check answers a fault or what follows it (R71). -/
theorem withRange_next {n : Nat} {s go t : State} (h : withRange n s go = .next t) :
    t = s.raise .memOob (.value (firstOob s)) ∨ t = go := by
  rcases withRange_cases h with ⟨-, h⟩ | ⟨-, h⟩ <;> simp [h]

/-- What an instruction does to the run state, the fault record and the latch: it takes a fatal fault and writes nothing else,
or it is Fx0A and enters its wait, or it leaves all three as they are. -/
theorem exec_cases {i : Instr} {s t : State} (h : exec i s = .next t) :
    (∃ c info, c ≠ .fetchOob ∧ t = s.raise c info) ∨
    (∃ x, i = .ldVK x ∧ t = { s with run := .awaitingKey x, keyLatch := none }) ∨
    ((∀ x, i ≠ .ldVK x) ∧ t.run = s.run ∧ t.fault = s.fault ∧ t.keyLatch = s.keyLatch) := by
  cases i <;> simp only [exec] at h
  case ret =>
    unfold execRet at h
    split at h <;> cases h
    · rename_i hp
      unfold State.pop at hp
      split at hp <;> cases hp
      exact .inr (.inr ⟨by simp, rfl, rfl, rfl⟩)
    · exact .inl ⟨_, _, by simp, rfl⟩
  case call =>
    unfold execCall at h
    split at h <;> cases h
    · rename_i hp
      unfold State.push at hp
      split at hp <;> cases hp
      exact .inr (.inr ⟨by simp, rfl, rfl, rfl⟩)
    · exact .inl ⟨_, _, by simp, rfl⟩
  case drw =>
    rcases withRange_next h with rfl | h
    · exact .inl ⟨_, _, by simp, rfl⟩
    · split at h <;> subst h
      · exact .inl ⟨_, _, by simp, rfl⟩
      · exact .inr (.inr ⟨by simp, rfl, rfl, rfl⟩)
  case skp =>
    unfold execSkp at h
    split at h <;> cases h
    · exact .inr (.inr ⟨by simp, by simp [State.skipIf_eq]⟩)
    · exact .inl ⟨_, _, by simp, rfl⟩
  case sknp =>
    unfold execSknp at h
    split at h <;> cases h
    · exact .inr (.inr ⟨by simp, by simp [State.skipIf_eq]⟩)
    · exact .inl ⟨_, _, by simp, rfl⟩
  case ldVK x => cases h; exact .inr (.inl ⟨x, rfl, rfl⟩)
  case ldB | ldMemV | ldVMem =>
    rcases withRange_next h with rfl | rfl
    · exact .inl ⟨_, _, by simp, rfl⟩
    · exact .inr (.inr ⟨by simp, rfl, rfl, rfl⟩)
  all_goals
    cases h
    exact .inr (.inr ⟨by simp, by simp [State.skipIf_eq, State.finishFlagged_eq]⟩)

/-! ### Key events (R282) -/

/-- A key already pressed makes no transition. -/
theorem State.press_of_held {s : State} {k : Key} (h : s.keys[k] = true) : s.press k = s := by
  rw [State.press, if_pos h]

/-- The first press during a wait fills the latch. -/
theorem State.press_of_waiting {s : State} {k : Key} {x : Reg} (h : s.keys[k] = false) (hr : s.run = .awaitingKey x)
    (hl : s.keyLatch = none) : s.press k = { s with keys := s.keys.set k true, keyLatch := some k } := by
  rw [State.press, if_neg (by rw [h]; simp), hr, hl]

/-- A press outside a wait, or with the latch full, sets the key only. -/
theorem State.press_unlatched {s : State} {k : Key} (h : s.keys[k] = false)
    (hn : (∀ x, s.run ≠ .awaitingKey x) ∨ s.keyLatch ≠ none) : s.press k = { s with keys := s.keys.set k true } := by
  rw [State.press, if_neg (by rw [h]; simp)]
  split
  · rename_i x hr hl
    exact absurd hl (hn.resolve_left (fun f => f x hr))
  · rfl

/-- A press moves the keys and the latch only, and the latch only from empty during a wait. -/
theorem State.press_cases (s : State) (k : Key) :
    s.press k = s ∨ s.press k = { s with keys := s.keys.set k true } ∨
      ((∃ x, s.run = .awaitingKey x) ∧ s.keyLatch = none ∧ s.keys[k] = false ∧
        s.press k = { s with keys := s.keys.set k true, keyLatch := some k }) := by
  by_cases h : s.keys[k] = true
  · exact .inl (State.press_of_held h)
  · have h : s.keys[k] = false := by simpa using h
    by_cases hw : (∃ x, s.run = .awaitingKey x) ∧ s.keyLatch = none
    · obtain ⟨⟨x, hx⟩, hl⟩ := hw
      exact .inr (.inr ⟨⟨x, hx⟩, hl, h, State.press_of_waiting h hx hl⟩)
    · refine .inr (.inl (State.press_unlatched h ?_))
      by_cases hx : ∃ x, s.run = .awaitingKey x
      · exact .inr (fun hl => hw ⟨hx, hl⟩)
      · exact .inl (fun x hr => hx ⟨x, hr⟩)

/-! ### Initialize and LoadProgram (R300, R303) -/

/-- A ROM that fits is written at 512, and nothing else happens. -/
theorem State.loadProgram_of_le (s : State) {rom : List Byte} (h : rom.length ≤ 3584) :
    s.loadProgram rom = { s with M := s.M.writeBytes 512 rom } := by
  have : ¬ rom.length > Config.maxRom := by simp [Config.maxRom]; omega
  simp only [State.loadProgram, if_neg this, Config.progBase]

/-- A ROM that does not fit is reported, and nothing else happens. -/
theorem State.loadProgram_of_gt (s : State) {rom : List Byte} (h : rom.length > 3584) :
    s.loadProgram rom = { s with outputs := s.outputs ++ [.capacityExceeded] } := by
  have : rom.length > Config.maxRom := by simp [Config.maxRom]; omega
  simp only [State.loadProgram, if_pos this]

@[simp] theorem font_length : font.length = 80 := by decide

/-- A font byte is what an unlisted address reads as. -/
theorem unlisted_font (a : Nat) : unlisted a = font.getD a 0#8 := rfl

/-- Memory after Initialize: the font at 0..79, and every other byte as it was (R300). -/
theorem State.read_initCore (s : State) (a : Nat) :
    s.initCore.M.read a = if a < 80 then font.getD a 0#8 else s.M.read a := by
  rw [State.initCore_M, Memory.read_writeBytes, font_length]
  simp

/-- Writing bytes that unlisted addresses read as anyway only drops cells. -/
theorem Memory.writeBytes_unlisted (m : Memory) (a : Nat) (vs : List Byte)
    (h : ∀ j, j < vs.length → vs.getD j 0#8 = unlisted (a + j)) :
    m.writeBytes a vs = m.filter (fun c => !(decide (a ≤ c.1) && decide (c.1 < a + vs.length))) := by
  induction vs generalizing m a with
  | nil =>
    rw [Memory.writeBytes, eq_comm, List.filter_eq_self]
    intro c _
    simp; omega
  | cons v rest ih =>
    have hv : v = unlisted a := h 0 (by simp)
    rw [Memory.writeBytes, Memory.write, if_pos hv, ih, List.filter_filter]
    · apply List.filter_congr
      intro c _
      by_cases h1 : c.1 = a
      · simp [h1]
      · have h2 : (a + 1 ≤ c.1) ↔ (a ≤ c.1) := by omega
        have h3 : (c.1 < a + 1 + rest.length) ↔ (c.1 < a + (v :: rest).length) := by simp; omega
        simp only [h2, h3, bne_iff_ne.2 h1, Bool.and_true]
    · intro j hj
      have := h (j + 1) (by simpa using hj)
      rw [List.getD_cons_succ] at this
      rw [this]; congr 1; omega

/-- Initialize's memory drops the listed cells below 80, so that a second Initialize changes nothing (R301). -/
theorem State.initCore_memory (s : State) : s.initCore.M = s.M.filter (fun c => decide (80 ≤ c.1)) := by
  rw [State.initCore_M, Memory.writeBytes_unlisted s.M 0 font (fun j _ => by simp [unlisted]), font_length]
  apply List.filter_congr
  intro c _
  by_cases h : 80 ≤ c.1 <;> simp [h]
  omega

/-! ### Steps -/

/-- Everything a step that answers a next state can be: a running CPU's three ways, a key wait completed or held, a tick, an
Initialize, a load or a failed load, a press or a release. -/
theorem step_cases {s t : State} (h : step s = .next t) :
    (∃ rest, s.CpuTurn rest ∧ s.run = .running ∧
      ((s.pc.toNat > 4094 ∧ t = State.raiseFetch { s with agenda := rest, justInitialized := false }) ∨
      (∃ w, s.fetch = some w ∧ decodeWord w = none ∧ t = ((s.fetched w rest).report w s.pc).advance.retire) ∨
      (∃ w i u, s.fetch = some w ∧ decodeWord w = some i ∧ exec i (s.fetched w rest) = .next u ∧ t = u.retire))) ∨
    (∃ rest x k, s.CpuTurn rest ∧ s.run = .awaitingKey x ∧ s.keyLatch = some k ∧
      t = completeKeyWait x k { s with agenda := rest, justInitialized := false }) ∨
    (∃ rest x, s.CpuTurn rest ∧ s.run = .awaitingKey x ∧ s.keyLatch = none ∧
      t = { s with agenda := rest, justInitialized := false }) ∨
    (∃ rest, s.agenda = .tick :: rest ∧ t = State.timerTick { s with agenda := rest, justInitialized := false }) ∨
    (∃ rest, s.agenda = .init :: rest ∧ t = State.initCore { s with agenda := rest }) ∨
    (∃ rom rest, s.agenda = .load rom :: rest ∧ s.justInitialized = true ∧
      t = State.loadProgram { s with agenda := rest, justInitialized := false } rom) ∨
    (∃ k rest, s.agenda = .press k :: rest ∧ t = State.press { s with agenda := rest, justInitialized := false } k) ∨
    (∃ k rest, s.agenda = .release k :: rest ∧
      t = State.release { s with agenda := rest, justInitialized := false } k) := by
  by_cases hcpu : ∃ rest, s.CpuTurn rest
  · obtain ⟨rest, hc⟩ := hcpu
    rw [step_of_cpuTurn hc] at h
    cases hr : s.run with
    | running =>
      rw [cpuStep_of_running (by exact hr)] at h
      refine .inl ⟨rest, hc, rfl, ?_⟩
      rcases cpuRunning_cases { s with agenda := rest, justInitialized := false } with
        ⟨hpc, e⟩ | ⟨w, hf, hd, e⟩ | ⟨w, i, hf, hd, e⟩
      · rw [e] at h
        exact .inl ⟨hpc, (Host.Outcome.next.inj h).symm⟩
      · rw [e] at h
        exact .inr (.inl ⟨w, hf, hd, (Host.Outcome.next.inj h).symm⟩)
      · rw [e] at h
        have hs : ({ s with agenda := rest, justInitialized := false, opcode := w } : State) = s.fetched w rest := rfl
        cases hx : exec i (s.fetched w rest) with
        | next u =>
          rw [hs, hx] at h
          exact .inr (.inr ⟨w, i, u, hf, hd, hx, (Host.Outcome.next.inj h).symm⟩)
        | fault r => 
          rw [hs, hx] at h
          cases h
        | refused r => 
          rw [hs, hx] at h
          cases h
    | awaitingKey x =>
      cases hk : s.keyLatch with
      | some k =>
        rw [cpuStep_of_latched (by exact hr) (by exact hk)] at h
        exact .inr (.inl ⟨rest, x, k, hc, rfl, rfl, (Host.Outcome.next.inj h).symm⟩)
      | none =>
        rw [cpuStep_of_held (by exact hr) (by exact hk)] at h
        exact .inr (.inr (.inl ⟨rest, x, hc, rfl, rfl, (Host.Outcome.next.inj h).symm.trans (by rw [hr, hk])⟩))
    | faulted =>
      rw [cpuStep_of_faulted (by exact hr)] at h
      cases h
  · cases ha : s.agenda with
    | nil => exact absurd ⟨[], State.cpuTurn_iff.2 (.inl ⟨ha, rfl⟩)⟩ hcpu
    | cons e rest =>
      rw [step_of_agenda ha] at h
      cases e with
      | cpu => exact absurd ⟨rest, State.cpuTurn_iff.2 (.inr ha)⟩ hcpu
      | tick => exact .inr (.inr (.inr (.inl ⟨rest, rfl, (Host.Outcome.next.inj h).symm⟩)))
      | init => exact .inr (.inr (.inr (.inr (.inl ⟨rest, rfl, (Host.Outcome.next.inj h).symm⟩))))
      | load rom =>
        simp only [turn] at h
        split at h
        · exact .inr (.inr (.inr (.inr (.inr (.inl ⟨rom, rest, rfl, ‹_›, (Host.Outcome.next.inj h).symm⟩)))))
        · cases h
      | press k => exact .inr (.inr (.inr (.inr (.inr (.inr (.inl ⟨k, rest, rfl, (Host.Outcome.next.inj h).symm⟩))))))
      | release k => exact .inr (.inr (.inr (.inr (.inr (.inr (.inr ⟨k, rest, rfl, (Host.Outcome.next.inj h).symm⟩))))))

end Sys2Proof.Machine
end

