-- ==== Sys2Proof/Tests/Slice0.lean ====
section
/-! SUPPORT. Tests, and at the end a witness for the hypotheses of each statement. Every expected result is a worked example or a vector of spec/95_test_vectors.md, or a word or table of
the rule named; each is one step on a small state. -/

namespace Sys2Proof.Tests

open Sys2Proof.Machine

/-! ### WellFormed: the one check refuses an ill-formed term (R93: n is a 4-bit count) -/

theorem test_wf_height_refused : Instr.wf (.drw 0 0 16) = false := by decide
theorem test_wf_height_accepted : Instr.wf (.drw 0 0 15) = true := by decide

/-! ### Decoding: words written out bit by bit from R92 and R96, one for every constructor -/

theorem test_decode_cls : decodeWord 0b0000000011100000#16 = some .cls := by decide
theorem test_decode_ret : decodeWord 0b0000000011101110#16 = some .ret := by decide
theorem test_decode_jp : decodeWord 0b0001001001001110#16 = some (.jp 0x24E#12) := by decide
theorem test_decode_call : decodeWord 0b0010001100000000#16 = some (.call 0x300#12) := by decide
theorem test_decode_seImm : decodeWord 0b0011001100010000#16 = some (.seImm 3 0x10#8) := by decide
theorem test_decode_sneImm : decodeWord 0b0100001100010001#16 = some (.sneImm 3 0x11#8) := by decide
theorem test_decode_seReg : decodeWord 0b0101000100100000#16 = some (.seReg 1 2) := by decide
theorem test_decode_ldImm : decodeWord 0b0110100000000001#16 = some (.ldImm 8 0x01#8) := by decide
theorem test_decode_addImm : decodeWord 0b0111101011111111#16 = some (.addImm 10 0xFF#8) := by decide
theorem test_decode_ldReg : decodeWord 0b1000000100100000#16 = some (.ldReg 1 2) := by decide
theorem test_decode_or : decodeWord 0b1000000100100001#16 = some (.or 1 2) := by decide
theorem test_decode_and : decodeWord 0b1000000100100010#16 = some (.and 1 2) := by decide
theorem test_decode_xor : decodeWord 0b1000000100100011#16 = some (.xor 1 2) := by decide
theorem test_decode_addReg : decodeWord 0b1000000100100100#16 = some (.addReg 1 2) := by decide
theorem test_decode_sub : decodeWord 0b1000000100100101#16 = some (.sub 1 2) := by decide
theorem test_decode_shr : decodeWord 0b1000000100000110#16 = some (.shr 1 0) := by decide
theorem test_decode_subn : decodeWord 0b1000000100100111#16 = some (.subn 1 2) := by decide
theorem test_decode_shl : decodeWord 0b1000000100101110#16 = some (.shl 1 2) := by decide
theorem test_decode_sneReg : decodeWord 0b1001000100100000#16 = some (.sneReg 1 2) := by decide
theorem test_decode_ldI : decodeWord 0b1010001011110000#16 = some (.ldI 0x2F0#12) := by decide
theorem test_decode_jpV0 : decodeWord 0b1011001100000000#16 = some (.jpV0 0x300#12) := by decide
theorem test_decode_rnd : decodeWord 0b1100001100001111#16 = some (.rnd 3 0x0F#8) := by decide
theorem test_decode_drw : decodeWord 0b1101000000010101#16 = some (.drw 0 1 5) := by decide
theorem test_decode_skp : decodeWord 0b1110000110011110#16 = some (.skp 1) := by decide
theorem test_decode_sknp : decodeWord 0b1110000110100001#16 = some (.sknp 1) := by decide
theorem test_decode_ldVDT : decodeWord 0b1111101100000111#16 = some (.ldVDT 11) := by decide
theorem test_decode_ldVK : decodeWord 0b1111000000001010#16 = some (.ldVK 0) := by decide
theorem test_decode_ldDTV : decodeWord 0b1111101000010101#16 = some (.ldDTV 10) := by decide
theorem test_decode_ldSTV : decodeWord 0b1111000000011000#16 = some (.ldSTV 0) := by decide
theorem test_decode_addI : decodeWord 0b1111001000011110#16 = some (.addI 2) := by decide
theorem test_decode_ldF : decodeWord 0b1111000000101001#16 = some (.ldF 0) := by decide
theorem test_decode_ldB : decodeWord 0b1111010100110011#16 = some (.ldB 5) := by decide
theorem test_decode_ldMemV : decodeWord 0b1111000101010101#16 = some (.ldMemV 1) := by decide
theorem test_decode_ldVMem : decodeWord 0b1111000101100101#16 = some (.ldVMem 1) := by decide

/-- The unknown words of vectors FD5 to FD8, and 0x0000 (R97). -/
theorem test_decode_unknown :
    [0x5121#16, 0x0123#16, 0x8008#16, 0x9121#16, 0xE19F#16, 0xF000#16, 0xF0FF#16, 0x0000#16].all
      (fun w => (decodeWord w).isNone) = true := by decide

/-- Bytes: S1's pair with what follows left over, and too few bytes (R65, R90). -/
theorem test_decode_bytes : decode [0xA2#8, 0xF0#8, 0x12#8] = .ok (.ldI 0x2F0#12, [0x12#8]) := by rfl
theorem test_decode_truncated : decode [0xA2#8] = .error .truncated := by rfl
theorem test_decode_table_word : decodeTableWord 16 0x124E = some (.jp 0x24E#12) := by decide

/-! ### Steps -/

/-- Reset, set up by `f`, with the word `w` stored where the next step fetches. -/
def before (w : Nat) (f : State → State) : State := (f State.reset).withFetchWord 16 w

/-- What `g` observes after the step that runs `w`. -/
def after {α : Type} (w : Nat) (f : State → State) (g : State → α) : Option α :=
  match step (before w f) with
  | .next t => some (g t)
  | .fault _ => none
  | .refused _ => none

/-- Reset with two registers set. -/
def regs (x : Reg) (a : Byte) (y : Reg) (b : Byte) (s : State) : State := (s.setReg x a).setReg y b

/-- A register and VF. -/
def regAndFlag (x : Reg) (t : State) : Byte × Byte := (t.reg x, t.reg VF)

/-- S1: A2F0 sets I and advances. -/
theorem test_ldI : after 0xA2F0 id (fun t => (t.I, t.pc, t.opcode)) = some (0x2F0#16, 0x202#16, 0xA2F0#16) := by decide
/-- S2 and CT15. -/
theorem test_jp : after 0x124E id (fun t => t.pc) = some 0x24E#16 := by decide
/-- S3. -/
theorem test_ldImm : after 0x6801 id (fun t => (t.reg 8, t.pc)) = some (0x01#8, 0x202#16) := by decide
/-- AL1 and AL2. -/
theorem test_addImm_wraps : after 0x7501 (regs 5 0xFF#8 15 0x20#8) (regAndFlag 5) = some (0x00#8, 0x20#8) := by decide
theorem test_addImm_vf : after 0x7F01 (regs 15 0x20#8 15 0x20#8) (regAndFlag 15) = some (0x21#8, 0x21#8) := by decide
/-- AL21. -/
theorem test_ldReg : after 0x8F20 (regs 2 0x33#8 15 0x01#8) (regAndFlag 2) = some (0x33#8, 0x33#8) := by decide
/-- AL19, with VF kept, and AL20. -/
theorem test_or : after 0x8121 (fun s => regs 1 0xF0#8 2 0x0F#8 (s.setReg VF 0x77#8)) (regAndFlag 1) =
    some (0xFF#8, 0x77#8) := by decide
theorem test_and : after 0x8122 (fun s => regs 1 0xF0#8 2 0x3C#8 (s.setReg VF 0x77#8)) (regAndFlag 1) =
    some (0x30#8, 0x77#8) := by decide
theorem test_xor : after 0x8123 (fun s => regs 1 0xF0#8 2 0x3C#8 (s.setReg VF 0x77#8)) (regAndFlag 1) =
    some (0xCC#8, 0x77#8) := by decide
/-- S4, AL5. -/
theorem test_addReg : after 0x8124 (regs 1 0xFF#8 2 0x01#8) (regAndFlag 1) = some (0x00#8, 0x01#8) := by decide
theorem test_addReg_vf : after 0x8F14 (regs 15 0xFF#8 1 0x01#8) (regAndFlag 15) = some (0x01#8, 0x01#8) := by decide
/-- S5b, AL7. -/
theorem test_sub : after 0x8125 (regs 1 0x03#8 2 0x05#8) (regAndFlag 1) = some (0xFE#8, 0x00#8) := by decide
theorem test_sub_equal : after 0x8125 (regs 1 0x05#8 2 0x05#8) (regAndFlag 1) = some (0x00#8, 0x00#8) := by decide
/-- AL13 (y ignored), AL15. -/
theorem test_shr : after 0x8126 (regs 1 0x05#8 2 0xFF#8) (regAndFlag 1) = some (0x02#8, 0x01#8) := by decide
theorem test_shr_vf : after 0x8FF6 (regs 15 0x03#8 15 0x03#8) (regAndFlag 15) = some (0x01#8, 0x01#8) := by decide
/-- AL10, AL12. -/
theorem test_subn : after 0x8127 (regs 1 0x03#8 2 0x05#8) (regAndFlag 1) = some (0x02#8, 0x01#8) := by decide
theorem test_subn_below : after 0x8127 (regs 1 0x05#8 2 0x03#8) (regAndFlag 1) = some (0xFE#8, 0x00#8) := by decide
/-- AL17, AL18. -/
theorem test_shl : after 0x812E (regs 1 0x81#8 2 0x00#8) (regAndFlag 1) = some (0x02#8, 0x01#8) := by decide
theorem test_shl_clear : after 0x810E (regs 1 0x7F#8 1 0x7F#8) (regAndFlag 1) = some (0xFE#8, 0x00#8) := by decide
/-- AL22: with nn = 0 the result is 0 for every draw, and one draw is taken. -/
theorem test_rnd_zero : after 0xC300 (regs 3 0x55#8 3 0x55#8) (fun t => (t.draws, t.pc)) = some (1, 0x202#16) := by decide

/-- S6: the call, and the return from it. -/
theorem test_call : after 0x2300 id (fun t => (t.pc, t.sp, t.stack[0])) = some (0x300#16, 1, 0x200#16) := by decide
theorem test_ret : after 0x00EE (fun s => { s with sp := 1, stack := s.stack.set 0 0x204#16 }) (fun t => (t.pc, t.sp)) =
    some (0x206#16, 0) := by decide
/-- The fault records of R261: call with sp = 16 and return with sp = 0. -/
theorem test_call_overflow : after 0x2300 (fun s => { s with sp := 16 }) (fun t => (t.run, t.pc, t.sp, t.fault)) =
    some (.faulted, 0x200#16, 16,
      some { cause := .stackOverflow, pc := 0x200#16, word := 0x2300#16, info := .value 16 }) := by decide
theorem test_ret_underflow : after 0x00EE id (fun t => (t.run, t.cycleCount, t.faultCode, t.opcode)) =
    some (.faulted, 0, 3, 0x00EE#16) := by decide
/-- CT7, CT8. -/
theorem test_seImm : (after 0x3310 (regs 3 0x10#8 3 0x10#8) (fun t => t.pc),
    after 0x3311 (regs 3 0x10#8 3 0x10#8) (fun t => t.pc)) = (some 0x204#16, some 0x202#16) := by decide
theorem test_sneImm : (after 0x4311 (regs 3 0x10#8 3 0x10#8) (fun t => t.pc),
    after 0x4310 (regs 3 0x10#8 3 0x10#8) (fun t => t.pc)) = (some 0x204#16, some 0x202#16) := by decide
/-- CT9, CT11. -/
theorem test_seReg : after 0x5120 (regs 1 7#8 2 7#8) (fun t => t.pc) = some 0x204#16 := by decide
theorem test_sneReg : (after 0x9120 (regs 1 7#8 2 8#8) (fun t => t.pc), after 0x9120 (regs 1 7#8 2 7#8) (fun t => t.pc)) =
    (some 0x204#16, some 0x202#16) := by decide
/-- CT14: the offset register is V0. -/
theorem test_jpV0 : after 0xBA00 (regs 0 4#8 10 9#8) (fun t => t.pc) = some 0xA04#16 := by decide

/-- IM2, IM3. -/
theorem test_addI : after 0xF11E (fun s => { s.setReg 1 2#8 with I := 0xFFFF#16 }) (fun t => (t.I, t.reg VF)) =
    some (0x0001#16, 0#8) := by decide
/-- IM4. -/
theorem test_ldF : after 0xF029 (regs 0 0xFF#8 0 0xFF#8) (fun t => t.I) = some 1275#16 := by decide
/-- IM5, IM7. -/
theorem test_ldB : after 0xF533 (fun s => { s.setReg 5 156#8 with I := 0x300#16 })
    (fun t => (t.M.read 0x300, t.M.read 0x301, t.M.read 0x302, t.I)) = some (1#8, 5#8, 6#8, 0x300#16) := by
  decide +kernel
theorem test_ldB_oob : after 0xF533 (fun s => { s with I := 0xFFE#16 }) (fun t => (t.faultCode, t.fault.map (·.info))) =
    some (4, some (.value 4096)) := by decide
/-- The dump of R204's example, and IM10. -/
theorem test_ldMemV : after 0xF155 (fun s => { regs 0 1#8 1 2#8 s with I := 0x300#16 })
    (fun t => (t.M.read 0x300, t.M.read 0x301, t.M.read 0x302, t.I)) = some (1#8, 2#8, 0#8, 0x300#16) := by
  decide +kernel
theorem test_ldMemV_oob : after 0xF155 (fun s => { s.setReg 0 7#8 with I := 0xFFF#16 })
    (fun t => (t.M.read 0xFFF, t.fault.map (·.info))) = some (0#8, some (.value 4096)) := by decide +kernel
/-- IM13: V0 alone is loaded. -/
theorem test_ldVMem : after 0xF065 (fun s => { s.setReg 1 9#8 with I := 0x300#16, M := s.M.write 0x300 0x42#8 })
    (fun t => (t.reg 0, t.reg 1)) = some (0x42#8, 9#8) := by decide +kernel

/-- DS1. -/
theorem test_cls : after 0x00E0 (fun s => { s with fb := s.fb.flip 2047 }) (fun t => (t.fb.cell 2047, t.outputs.length)) =
    some (false, 1) := by decide +kernel
/-- DS2: glyph 0 from the font, 14 cells, one publish. -/
theorem test_drw_glyph : after 0xD015 id
    (fun t => ((List.range 2048).filter t.fb.cell, t.reg VF, t.outputs.length)) =
    some ([0, 1, 2, 3, 64, 67, 128, 131, 192, 195, 256, 257, 258, 259], 0#8, 2) := by decide +kernel
/-- DS8: the second row is off the grid, and the first is not drawn. -/
theorem test_drw_edge : after 0xD232 (fun s => { s.setReg 3 31#8 with
      I := 0x300#16, M := s.M.writeBytes 0x300 [0x80#8, 0x80#8] })
    (fun t => (t.fb.cell 1984, t.fault.map (·.info), t.outputs.length)) = some (false, some (.pixel 0 32), 1) := by
  decide +kernel

/-- KT1, KT2, KT3. -/
theorem test_skp : (after 0xE19E (fun s => { s.setReg 1 5#8 with keys := s.keys.set 5 true }) (fun t => t.pc),
    after 0xE19E (regs 1 5#8 1 5#8) (fun t => t.pc)) = (some 0x204#16, some 0x202#16) := by decide
theorem test_skp_oob : after 0xE19E (regs 1 0x10#8 1 0x10#8) (fun t => t.fault) =
    some (some { cause := .keyOob, pc := 0x200#16, word := 0xE19E#16, info := .value 0x10 }) := by decide
theorem test_sknp : (after 0xE1A1 (fun s => { s.setReg 1 5#8 with keys := s.keys.set 5 true }) (fun t => t.pc),
    after 0xE1A1 (regs 1 5#8 1 5#8) (fun t => t.pc)) = (some 0x202#16, some 0x204#16) := by decide
/-- KT4, and R233's and R234's examples. -/
theorem test_ldVDT : after 0xFB07 (fun s => { s with DT := 0x3C#8 }) (fun t => t.reg 11) = some 0x3C#8 := by decide
theorem test_ldDTV : after 0xFA15 (regs 10 60#8 10 60#8) (fun t => (t.DT, t.ST)) = some (60#8, 0#8) := by decide
theorem test_ldSTV : after 0xF018 (regs 0 2#8 0 2#8) (fun t => (t.DT, t.ST, t.tone)) = some (0#8, 2#8, true) := by decide
/-- KT10: entry; pc is held. -/
theorem test_ldVK : after 0xF00A (fun s => { s with pc := 0x20A#16 }) (fun t => (t.run, t.keyLatch, t.pc, t.cycleCount)) =
    some (.awaitingKey 0, none, 0x20A#16, 1) := by decide
/-- KT14: completion. -/
theorem test_ldVK_completes :
    (match step { State.reset with run := .awaitingKey 0, keyLatch := some 7, pc := 0x20A#16, opcode := 0xF00A#16 } with
      | .next t => some (t.reg 0, t.run, t.pc)
      | _ => none) = some (7#8, .running, 0x20C#16) := by decide

/-- FD3: a fetch past 4094. -/
theorem test_fetch_oob :
    (match step { State.reset with pc := 0xFFF#16 } with
      | .next t => t.fault
      | _ => none) = some { cause := .fetchOob, pc := 0xFFF#16, word := 0#16, info := .value 0xFFF } := by decide
/-- FD5: an unknown word is logged and skipped. -/
theorem test_unknown : after 0x5121 id (fun t => (t.advisory, t.pc, t.cycleCount)) =
    some ([{ cause := .unknownOpcode, word := 0x5121#16, addr := 0x200#16 }], 0x202#16, 1) := by decide
/-- KT8, KT11 to KT13. -/
theorem test_tick : (({ State.reset with ST := 3#8 } : State).timerTick.DT,
    ({ State.reset with ST := 3#8 } : State).timerTick.ST) = (0#8, 2#8) := by decide
theorem test_press_first_wins :
    ((({ State.reset with run := .awaitingKey 0 } : State).press 7).press 3).keyLatch = some 7 := by decide
/-- KT15: a key already held makes no transition. -/
theorem test_press_held :
    (({ State.reset with run := .awaitingKey 0, keys := State.reset.keys.set 3 true } : State).press 3).keyLatch = none := by
  decide
/-- R288 and R306: a load after a failed load does not follow an Initialize directly, and is refused; R304: the failed one
reports and writes nothing. -/
theorem test_load_after_failed_load :
    (match step { State.reset with agenda := [.load (List.replicate 3585 1#8), .load []] } with
      | .next t =>
        match step t with
        | .refused r => some (r, t.M, t.outputs.length)
        | _ => none
      | _ => none) = some (.loadNotAfterInitialize, [], 2) := by decide +kernel
/-- RS4: a load writes its ROM's bytes and leaves what was above them. -/
theorem test_load :
    (match step { State.reset with M := Memory.write [] 0x300 0x99#8, agenda := [.load [0x12#8, 0x00#8]] } with
      | .next t => some (t.M.read 0x200, t.M.read 0x300)
      | _ => none) = some (0x12#8, 0x99#8) := by decide +kernel

/-! ### Witnesses: a state and operands that meet the hypotheses of each statement of
Certificates/Slice0/Obligations.lean that has any, for each clause at a boundary of its range -/

/-- `t` is what `step s` answers, seen through `g`. -/
def seen {α : Type} (s : State) (g : State → α) : Option α :=
  match step s with
  | .next t => some (g t)
  | .fault _ => none
  | .refused _ => none

/-- Reset with an agenda. -/
def onAgenda (l : List Event) : State := { State.reset with agenda := l }

/-- A waiting CPU, with a latch and an agenda. -/
def waiting (x : Reg) (latch : Option Key) (l : List Event) : State :=
  { State.reset with run := .awaitingKey x, keyLatch := latch, agenda := l }

theorem witness_DecodeOfEncode : Instr.wf (.drw 15 15 15) = true := by decide
theorem witness_EncodeOfDecode : decodeWord 0xDFFF#16 = some (.drw 15 15 15) := by decide

/-- pc = 4094 and pc = 4095. -/
theorem witness_FetchIsBigEndianAndBounded :
    ({ State.reset with pc := 4094#16 } : State).pc.toNat ≤ 4094 ∧
    ({ State.reset with pc := 4095#16 } : State).pc.toNat > 4094 ∧
    ({ State.reset with pc := 4095#16 } : State).CpuTurn [] ∧ ({ State.reset with pc := 4095#16 } : State).run = .running :=
  ⟨by decide, by decide, rfl, rfl⟩

theorem witness_StepRunsDecodedInstruction :
    (before 0x6801 id).CpuTurn [] ∧ (before 0x6801 id).run = .running ∧ (before 0x6801 id).fetch = some 0x6801#16 ∧
    decodeWord 0x6801#16 = some (.ldImm 8 1#8) ∧ ∃ t, exec (.ldImm 8 1#8) ((before 0x6801 id).fetched 0x6801#16 []) = .next t :=
  ⟨rfl, rfl, by decide, by decide, ⟨_, rfl⟩⟩

theorem witness_UnknownWordIsLoggedAndSkipped :
    (before 0x5121 id).CpuTurn [] ∧ (before 0x5121 id).run = .running ∧ (before 0x5121 id).fetch = some 0x5121#16 ∧
    decodeWord 0x5121#16 = none := ⟨rfl, rfl, by decide, by decide⟩

/-- Running, with and without a fault; a wait, completed and held; another agent's step, Initialize or not. -/
theorem witness_CycleCountCountsCompletedCpuSteps :
    seen (before 0x00EE id) (fun t => t.run) = some .faulted ∧ seen (before 0x6801 id) (fun t => t.run) = some .running ∧
    (before 0x6801 id).CpuTurn [] ∧ seen (waiting 3 (some 7) []) (fun t => t.run) = some .running ∧
    seen (waiting 3 none []) (fun t => t.run) = some (.awaitingKey 3) ∧ (waiting 3 none []).CpuTurn [] ∧
    seen (onAgenda [.init]) (fun t => t.run) = some .running ∧ seen (onAgenda [.tick]) (fun t => t.run) = some .running :=
  ⟨by decide, by decide, rfl, by decide, by decide, rfl, by decide +kernel, by decide⟩

theorem witness_JumpSetsPc : (0xFFF#12 : Addr12).toNat > 4094 := by decide
theorem witness_JumpWithOffsetAddsV0 : (0xF00#12 : Addr12).toNat + (regs 0 0xFF#8 0 0xFF#8 State.reset).V[0].toNat > 4094 := by
  decide
theorem witness_ImmediateSkips : 4092 ≤ ({ State.reset with pc := 4092#16 } : State).pc.toNat ∧
    ({ State.reset with pc := 4094#16 } : State).pc.toNat ≤ 4094 := by decide

/-- The last free entry, and none. -/
theorem witness_CallPushesItsAddress :
    ({ State.reset with sp := 15 } : State).sp.val < 16 ∧ ({ State.reset with sp := 16 } : State).sp.val = 16 := by decide

/-- 16 live entries, and none. -/
theorem witness_ReturnPopsAndAdvances :
    ({ State.reset with sp := 16 } : State).sp.val = (15 : Fin 16).val + 1 ∧ State.reset.sp.val = 0 := by decide

theorem witness_ReturnResumesAfterCall : ∃ s t : State, s.sp.val < 16 ∧ exec (.call 0x300#12) s = .next t ∧
    t.sp = t.sp ∧ ∀ j : Fin 16, j.val < t.sp.val → t.stack[j] = t.stack[j] :=
  ⟨{ State.reset with sp := 15 }, _, by decide, rfl, rfl, fun _ _ => rfl⟩

/-- I + 2 = 4095 and 4096. -/
theorem witness_BcdStoresThreeDigits :
    ({ State.reset with I := 4093#16 } : State).I.toNat + 2 ≤ 4095 ∧
    ({ State.reset with I := 4094#16 } : State).I.toNat + 2 > 4095 := by decide

/-- I + x = 4095 and 4096, for x = 15 and, at the other end, x = 0. -/
theorem witness_DumpStoresRegisters :
    ({ State.reset with I := 4080#16 } : State).I.toNat + (15 : Reg).val ≤ 4095 ∧
    ({ State.reset with I := 4081#16 } : State).I.toNat + (15 : Reg).val > 4095 ∧
    ({ State.reset with I := 4096#16 } : State).I.toNat + (0 : Reg).val > 4095 := by decide
theorem witness_LoadReadsRegisters :
    ({ State.reset with I := 4095#16 } : State).I.toNat + (0 : Reg).val ≤ 4095 ∧
    ({ State.reset with I := 65535#16 } : State).I.toNat + (15 : Reg).val > 4095 := by decide

theorem witness_LoadAfterDumpRestores : ∃ s t : State, s.I.toNat + (15 : Reg).val ≤ 4095 ∧
    exec (.ldMemV 15) s = .next t ∧ t.M = t.M ∧ t.I = t.I :=
  ⟨{ State.reset with I := 4080#16 }, _, by decide, rfl, rfl, rfl⟩

/-- The dump fills the last word of memory. -/
theorem witness_StoredWordIsFetchedNext : ∃ s t : State, 1 ≤ (1 : Reg).val ∧ s.I.toNat = s.pc.toNat + 2 ∧
    s.I.toNat + (1 : Reg).val ≤ 4095 ∧ exec (.ldMemV 1) s = .next t :=
  ⟨{ State.reset with pc := 4092#16, I := 4094#16 }, _, by decide, by decide, by decide, rfl⟩

/-- Memories written in two orders, with a write of the value an unlisted address reads as. -/
theorem witness_MemoriesThatReadAlikeAreEqual : ∃ m n : Memory, m.wf = true ∧ n.wf = true ∧
    ∀ a, a < 4096 → m.read a = n.read a := by
  refine ⟨Memory.writeBytes [] 512 [1#8, 0#8], Memory.write (Memory.write [] 513 0#8) 512 1#8, by decide, by decide, ?_⟩
  intro a _
  simp only [Memory.writeBytes, Memory.read_write]
  by_cases h1 : a = 512 <;> by_cases h2 : a = 513 <;> simp_all

/-- Registers V0 and V1 and the index register, over the font. -/
def sprite (a b : Byte) (i : Word) : State := { regs 0 a 1 b State.reset with I := i }

theorem covers_within {s : State} {x y : Reg} {n : Nat} (h : (spriteOf x y n s).all (fun p => !offGrid p) = true) :
    ∀ col row, SpriteCovers s x y n col row → col ≤ 63 ∧ row ≤ 31 := by
  intro col row hc
  have := List.all_eq_true.1 h _ (mem_spriteOf.2 hc)
  obtain ⟨h1, h2, -⟩ := cellOf_lt (p := (col, row)) (by simpa using this)
  omega

/-- n = 0 with I anywhere, and glyph 0 in the bottom right corner, its 8-column box reaching past column 63. -/
theorem witness_DrawXorsCoveredCells :
    (∀ col row, SpriteCovers (sprite 0xFF#8 0xFF#8 0xFFFF#16) 0 1 0 col row → col ≤ 63 ∧ row ≤ 31) ∧
    (sprite 60#8 27#8 0#16).I.toNat + 5 ≤ 4096 ∧
    (∀ col row, SpriteCovers (sprite 60#8 27#8 0#16) 0 1 5 col row → col ≤ 63 ∧ row ≤ 31) ∧
    SpriteCovers (sprite 60#8 27#8 0#16) 0 1 5 63 31 :=
  ⟨covers_within (by decide), by decide, covers_within (by decide), mem_spriteOf.1 (by decide)⟩

theorem witness_DrawPastMemoryFaults : 0 < 1 ∧ (sprite 0#8 0#8 4096#16).I.toNat + 1 > 4096 := by decide

/-- Past the right edge, and past the bottom edge with the rows above it on the grid. -/
theorem witness_DrawPastEdgeFaults :
    (SpriteCovers (sprite 61#8 27#8 0#16) 0 1 5 64 27 ∧
      ∀ c r, SpriteCovers (sprite 61#8 27#8 0#16) 0 1 5 c r → (r < 27 ∨ (r = 27 ∧ c < 64)) → c ≤ 63 ∧ r ≤ 31) ∧
    (SpriteCovers (sprite 0#8 31#8 0#16) 0 1 5 0 32 ∧
      ∀ c r, SpriteCovers (sprite 0#8 31#8 0#16) 0 1 5 c r → (r < 32 ∨ (r = 32 ∧ c < 0)) → c ≤ 63 ∧ r ≤ 31) := by
  have h : ∀ (s : State) (col row : Nat),
      (spriteOf 0 1 5 s).all (fun p => !(decide (p.2 < row) || (p.2 == row && decide (p.1 < col))) || !offGrid p) = true →
      ∀ c r, SpriteCovers s 0 1 5 c r → (r < row ∨ (r = row ∧ c < col)) → c ≤ 63 ∧ r ≤ 31 := by
    intro s col row h c r hc hlt
    have hall := List.all_eq_true.1 h _ (mem_spriteOf.2 hc)
    obtain ⟨h1, h2, -⟩ := cellOf_lt (p := (c, r)) (by
      rcases Bool.or_eq_true_iff.1 hall with hb | hb
      · simp at hb
        omega
      · simpa using hb)
    omega
  exact ⟨⟨mem_spriteOf.1 (by decide), h _ 64 27 (by decide)⟩, ⟨mem_spriteOf.1 (by decide), h _ 0 32 (by decide)⟩⟩

/-- A covered cell unlit, and every covered cell lit. -/
theorem witness_DrawTwiceRestoresTheScreen :
    (0 : Reg) ≠ 15 ∧ (1 : Reg) ≠ 15 ∧ (sprite 60#8 27#8 0#16).I.toNat + 5 ≤ 4096 ∧
    (∀ col row, SpriteCovers (sprite 60#8 27#8 0#16) 0 1 5 col row → col ≤ 63 ∧ row ≤ 31) ∧
    (∃ col row, SpriteCovers (sprite 60#8 27#8 0#16) 0 1 5 col row ∧
      (sprite 60#8 27#8 0#16).fb.cell (row * 64 + col) = false) ∧
    (let s : State := { sprite 60#8 27#8 0#16 with fb := Vector.replicate 32 (BitVec.allOnes 64) }
      ∀ col row, SpriteCovers s 0 1 5 col row → s.fb.cell (row * 64 + col) = true) := by
  refine ⟨by decide, by decide, by decide, covers_within (by decide),
    ⟨63, 31, mem_spriteOf.1 (by decide), Framebuffer.cell_blankScreen _⟩, ?_⟩
  intro s col row hc
  have h : col ≤ 63 ∧ row ≤ 31 := covers_within (s := s) (by decide) col row hc
  have h1 : (row * 64 + col) / 64 < 32 := by omega
  have h2 : (row * 64 + col) % 64 < 64 := by omega
  have hrow : (Vector.replicate 32 (BitVec.allOnes 64))[(row * 64 + col) / 64]? = some (BitVec.allOnes 64) := by
    rw [Vector.getElem?_replicate, if_pos h1]
  show ((Vector.replicate 32 (BitVec.allOnes 64))[(row * 64 + col) / 64]?.getD 0#64).getLsbD _ = true
  rw [hrow, Option.getD_some, BitVec.getLsbD_allOnes, decide_eq_true h2]

/-- V[x] = 15 and 16. -/
theorem witness_KeySkipsTestTheKey :
    (regs 1 15#8 1 15#8 State.reset).V[(1 : Reg)].toNat = (15 : Key).val ∧
    (regs 1 16#8 1 16#8 State.reset).V[(1 : Reg)].toNat > 15 := by decide

theorem witness_KeyWaitCompletesWithTheLatchedKey :
    (waiting 0 (some 15) []).CpuTurn [] ∧ (waiting 0 (some 15) []).run = .awaitingKey 0 ∧
    (waiting 0 (some 15) []).keyLatch = some 15 ∧ (waiting 15 none []).CpuTurn [] ∧
    (waiting 15 none []).run = .awaitingKey 15 ∧ (waiting 15 none []).keyLatch = none :=
  ⟨rfl, rfl, rfl, rfl, rfl, rfl⟩

/-- A press of a key already held, during a wait. -/
theorem witness_OnlyAPressWakesTheWait : ∃ s t : State, s.run = .awaitingKey 2 ∧ s.keyLatch = none ∧ step s = .next t ∧
    (∀ rest, s.agenda ≠ .init :: rest) ∧ (∀ k rest, s.agenda = .press k :: rest → s.keys[k] = true) := by
  refine ⟨{ waiting 2 none [.press 5] with keys := Vector.replicate 16 true }, _, rfl, rfl, rfl, ?_, ?_⟩
  · intro rest h
    cases h
  · intro k rest _
    simp

/-- A press that fills the latch; a press outside a wait; a press with the latch full; a release. -/
theorem witness_PressAndReleaseMoveKeysAndLatch :
    (waiting 2 none [.press 5]).agenda = .press 5 :: [] ∧ (waiting 2 none [.press 5]).keys[(5 : Key)] = false ∧
    (waiting 2 none [.press 5]).run = .awaitingKey 2 ∧ (waiting 2 none [.press 5]).keyLatch = none ∧
    (onAgenda [.press 5]).agenda = .press 5 :: [] ∧ (∀ x, (onAgenda [.press 5]).run ≠ .awaitingKey x) ∧
    (waiting 2 (some 1) [.press 5]).agenda = .press 5 :: [] ∧ (waiting 2 (some 1) [.press 5]).keyLatch ≠ none ∧
    (onAgenda [.release 5]).agenda = .release 5 :: [] := by decide

theorem witness_TickCountsBothTimersDown : (onAgenda [.tick]).agenda = .tick :: [] := rfl

theorem witness_TickCommutesWithOtherInstructions : ∃ t, (∀ x, Instr.ldImm 8 1#8 ≠ .ldVDT x ∧ Instr.ldImm 8 1#8 ≠ .ldDTV x ∧
    Instr.ldImm 8 1#8 ≠ .ldSTV x) ∧ exec (.ldImm 8 1#8) State.reset = .next t :=
  ⟨_, by simp, rfl⟩

/-- A run that begins with a press and goes on with ticks. -/
def tickingRun : Nat → State
  | 0 => { State.reset with DT := 2#8 }
  | 1 => State.press { State.reset with DT := 2#8, justInitialized := false } 0
  | k + 2 => (tickingRun (k + 1)).leaveInit.timerTick

/-- Its agents. -/
def tickingAgents : Nat → Event
  | 0 => .press 0
  | _ + 1 => .tick

theorem witness_FairTimerReachesZero : IsRun tickingRun tickingAgents ∧ TimerFair tickingRun tickingAgents ∧
    (∀ m, 0 ≤ m → tickingAgents m ≠ .tick → (tickingRun (m + 1)).DT = (tickingRun m).DT) := by
  refine ⟨?_, ?_, ?_⟩
  · intro k
    match k with
    | 0 => rfl
    | _ + 1 => rfl
  · rintro ⟨k, h⟩
    exact (h (k + 1) (by omega)).2 rfl
  · intro m _ h
    match m with
    | 0 => rfl
    | _ + 1 => exact absurd rfl h

/-- `FETCH_OOB`, and a fault of an instruction. -/
theorem witness_FaultsArePrecise :
    seen { State.reset with pc := 4095#16 } (fun t => t.run) = some .faulted ∧
    ({ State.reset with pc := 4095#16 } : State).CpuTurn [] ∧
    seen (before 0x00EE id) (fun t => (t.run, t.fault.map (·.cause))) = some (.faulted, some .stackUnderflow) ∧
    (before 0x00EE id).CpuTurn [] ∧ (before 0x00EE id).run = .running :=
  ⟨by decide, rfl, by decide, rfl, rfl⟩

/-- A faulted machine. -/
def stopped (l : List Event) : State := { State.reset.raise .stackUnderflow (.value 0) with agenda := l }

theorem witness_FaultedLastsUntilInitialize : (stopped []).run = .faulted ∧ (stopped []).CpuTurn [] ∧
    (stopped [.tick]).run = .faulted ∧ (∃ t, step (stopped [.tick]) = .next t) ∧
    ∀ rest, (stopped [.tick]).agenda ≠ .init :: rest :=
  ⟨rfl, rfl, rfl, ⟨_, rfl⟩, by intro rest h; cases h⟩

theorem witness_InitializeResetsEveryItem : (stopped [.init]).agenda = .init :: [] := rfl

theorem witness_InitializeTwiceIsOnce : (onAgenda [.init, .init]).agenda = .init :: .init :: [] ∧
    ∃ t u, step (onAgenda [.init, .init]) = .next t ∧ step t = .next u := ⟨rfl, _, _, rfl, rfl⟩

/-- 3584 and 3585 bytes (R304's boundary). -/
theorem witness_LoadWritesTheRomOrNothing :
    (onAgenda [.load (List.replicate 3584 1#8)]).justInitialized = true ∧ (List.replicate 3584 1#8).length ≤ 3584 ∧
    (onAgenda [.load (List.replicate 3585 1#8)]).justInitialized = true ∧ (List.replicate 3585 1#8).length > 3584 :=
  ⟨rfl, by rw [List.length_replicate], rfl, by rw [List.length_replicate]; decide⟩

theorem witness_LoadOnlyDirectlyAfterInitialize :
    ({ onAgenda [.load []] with justInitialized := false } : State).agenda = .load [] :: [] ∧
    seen (onAgenda [.init]) (fun t => t.justInitialized) = some true ∧
    seen (onAgenda [.tick]) (fun t => t.justInitialized) = some false := ⟨rfl, by decide +kernel, by decide⟩

theorem witness_LaunchMemoryIsFontAndRom :
    (onAgenda [.init, .load (List.replicate 3584 1#8)]).agenda = .init :: .load (List.replicate 3584 1#8) :: [] ∧
    (List.replicate 3584 1#8).length ≤ 3584 := ⟨rfl, by rw [List.length_replicate]⟩

/-- The invariant in a state other than reset, from which a step answers. -/
theorem witness_EveryStepKeepsTheInvariant : ∃ s t : State, s.Inv ∧ s.pc = 0x10FE#16 ∧ step s = .next t := by
  refine ⟨{ State.reset with pc := 0x10FE#16 }, _, ⟨rfl, by decide, ?_, ?_, ?_, ?_⟩, rfl, rfl⟩
  · intro x h
    cases h
  · intro j
    simp [State.reset]
  · constructor <;> intro h <;> cases h
  · intro h
    cases h

/-- A next state, a fault and a refusal. -/
theorem witness_HiddenStateDoesNotInfluence : (∃ t, step (onAgenda [.tick]) = .next t) ∧
    (∃ r, step (stopped []) = .fault r) ∧
    (∃ r, step ({ onAgenda [.load []] with justInitialized := false } : State) = .refused r) :=
  ⟨⟨_, rfl⟩, ⟨_, rfl⟩, ⟨_, rfl⟩⟩

/-- 8xy4 leaves a register that is neither its destination nor VF. -/
theorem witness_OnlyTabledRegistersChange : (∃ t, exec (.addReg 1 2) State.reset = .next t) ∧
    ¬ writesReg (.addReg 1 2) 3 := ⟨⟨_, rfl⟩, by unfold writesReg; decide⟩

/-- Every kind of state the statement names does change. -/
theorem witness_OnlyTheirWritersChangeState :
    seen (before 0xA2F0 id) (fun t => decide (t.I ≠ 0#16)) = some true ∧
    seen (before 0xF033 (fun s => { s.setReg 0 1#8 with I := 0x300#16 })) (fun t => decide (t.M.read 0x302 ≠ 0#8)) =
      some true ∧
    seen (before 0x00E0 (fun s => { s with fb := s.fb.flip 0 })) (fun t => t.fb.cell 0) = some false ∧
    seen (before 0xD010 id) (fun t => t.outputs.length) = some 2 ∧
    seen (before 0xF015 (fun s => s.setReg 0 1#8)) (fun t => decide (t.DT ≠ 0#8)) = some true ∧
    seen (before 0xF018 (fun s => s.setReg 0 1#8)) (fun t => decide (t.ST ≠ 0#8)) = some true ∧
    seen (before 0x2300 id) (fun t => decide (t.stack[0] ≠ 0#16 ∧ t.sp ≠ 0)) = some true ∧
    seen (before 0xC0FF id) (fun t => decide (t.draws ≠ 0)) = some true ∧
    seen (before 0xF00A (fun s => { s with keyLatch := some 1 })) (fun t => t.keyLatch) = some none := by
  refine ⟨by decide, by decide +kernel, by decide +kernel, by decide +kernel, by decide, by decide, by decide, by decide,
    by decide⟩

/-- A step that publishes, and one that logs. -/
theorem witness_LogsOnlyGrow : seen (before 0xD010 id) (fun t => t.outputs.length) = some 2 ∧
    seen (before 0x5121 id) (fun t => t.advisory.length) = some 1 := by decide +kernel

/-- Halted, with another word in `opcode` and with the jump's own, and the second step's turn. -/
theorem witness_SpinHaltLeavesStateUnchanged : (before 0x1200 id).Halted ∧ (before 0x1200 id).CpuTurn [] ∧
    (before 0x1200 (fun s => { s with opcode := 0x1200#16 })).Halted ∧
    (before 0x1200 (fun s => { s with opcode := 0x1200#16 })).fetch = some 0x1200#16 ∧
    seen (before 0x1200 id) (fun t => (t.agenda, t.opcode, t.cycleCount)) = some ([], 0x1200#16, 1) :=
  ⟨⟨rfl, rfl, 0x1200#16, 0x200#12, by decide, by decide, by decide⟩, rfl,
    ⟨rfl, rfl, 0x1200#16, 0x200#12, by decide, by decide, by decide⟩, by decide, by decide⟩

end Sys2Proof.Tests
end

section
/-! Proofs of the encoding family: what the words of three instructions decode to, the next state of two of them, and the
source's example words as their instances. -/

namespace Sys2Proof.Machine

/-! ### Decoding, for every value of the operand fields (R92, R96) -/

theorem decodeWord_encA_jp (nnn : Addr12) : decodeWord (encA 0x1#4 nnn) = some (.jp nnn) := by
  simp [decodeWord]

theorem decodeWord_encXI_ldImm (x : Reg) (nn : Byte) : decodeWord (encXI 0x6#4 x nn) = some (.ldImm x nn) := by
  simp [decodeWord]

theorem decodeWord_encA_ldI (nnn : Addr12) : decodeWord (encA 0xA#4 nnn) = some (.ldI nnn) := by
  simp [decodeWord]

/-! ### Next states (R141, R171) -/

theorem exec_jp (nnn : Addr12) (s : State) : exec (.jp nnn) s = .next { s with pc := nnn.setWidth 16 } := rfl

theorem exec_ldImm (x : Reg) (nn : Byte) (s : State) :
    exec (.ldImm x nn) s = .next { s with V := s.V.set x nn, pc := s.pc + 2#16 } := rfl

/-- Settles O4: the three words are `encA` and `encXI` words, and their effects the next states of `jp` and `ldImm`. -/
theorem sourceExampleWords : Obligations.SourceExampleWords := by
  refine ⟨?jump, ?load, ?index, fun s => ⟨exec_jp 0x24E#12 s, exec_ldImm 8 0x01#8 s⟩⟩
  case jump => exact decodeWord_encA_jp 0x24E#12
  case load => exact decodeWord_encXI_ldImm 8 0x01#8
  case index => exact decodeWord_encA_ldI 0x2F0#12

end Sys2Proof.Machine
end

section
/-! Proofs of the control family: the two jumps and the two immediate skips. Each is the word's decoding, the next state, and
the fetch after it where pc has left the fetchable addresses (R68). -/

namespace Sys2Proof.Machine

/-! ### Zero extension is exact (R93) -/

@[simp] theorem zextAddr_toNat (nnn : Addr12) : (zextAddr nnn).toNat = nnn.toNat :=
  BitVec.toNat_setWidth_of_le (by decide)

@[simp] theorem zextByte_toNat (v : Byte) : (zextByte v).toNat = v.toNat :=
  BitVec.toNat_setWidth_of_le (by decide)

/-- The sum of an address and a byte fits 16 bits (R147). -/
theorem zextAddr_add_zextByte_toNat (nnn : Addr12) (v : Byte) :
    (zextAddr nnn + zextByte v).toNat = nnn.toNat + v.toNat := by
  have hn := nnn.isLt
  have hv := v.isLt
  have hfits : (zextAddr nnn).toNat + (zextByte v).toNat < 2 ^ 16 := by
    rw [zextAddr_toNat, zextByte_toNat]
    omega
  rw [BitVec.toNat_add_of_lt hfits, zextAddr_toNat, zextByte_toNat]

/-! ### Decoding, for every value of the operand fields (R92, R96) -/

theorem decodeWord_encA_jpV0 (nnn : Addr12) : decodeWord (encA 0xB#4 nnn) = some (.jpV0 nnn) := by
  simp [decodeWord]

theorem decodeWord_encXI_seImm (x : Reg) (nn : Byte) : decodeWord (encXI 0x3#4 x nn) = some (.seImm x nn) := by
  simp [decodeWord]

theorem decodeWord_encXI_sneImm (x : Reg) (nn : Byte) : decodeWord (encXI 0x4#4 x nn) = some (.sneImm x nn) := by
  simp [decodeWord]

/-- A format `XI` word with its register field written as a number. -/
theorem encXI_eq_ofNat (f : BitVec 4) (x : Reg) (nn : Byte) : encXI f x nn = f ++ BitVec.ofNat 4 x.val ++ nn := by
  rw [encXI, regBits_eq_ofNat]

/-! ### Next states (R143, R144, R147) -/

theorem exec_jpV0 (nnn : Addr12) (s : State) :
    exec (.jpV0 nnn) s = .next { s with pc := zextAddr nnn + zextByte s.V[0] } := rfl

/-- A skip on a test that decides `P` adds 4 to pc where `P` holds and 2 elsewhere (R95). -/
theorem State.skipIf_eq_add (s : State) {b : Bool} {P : Prop} [Decidable P] (h : b = true ↔ P) :
    s.skipIf b = { s with pc := s.pc + if P then 4#16 else 2#16 } := by
  rw [State.skipIf_eq]
  by_cases hP : P
  · simp [h.2 hP, hP]
  · simp [mt h.1 hP, hP]

theorem exec_seImm (x : Reg) (nn : Byte) (s : State) :
    exec (.seImm x nn) s = .next { s with pc := s.pc + if s.V[x].toNat = nn.toNat then 4#16 else 2#16 } := by
  have htest : (s.reg x == nn) = true ↔ s.V[x].toNat = nn.toNat := beq_iff_eq.trans BitVec.toNat_inj.symm
  exact congrArg _ (s.skipIf_eq_add htest)

theorem exec_sneImm (x : Reg) (nn : Byte) (s : State) :
    exec (.sneImm x nn) s = .next { s with pc := s.pc + if s.V[x].toNat ≠ nn.toNat then 4#16 else 2#16 } := by
  have htest : (s.reg x != nn) = true ↔ s.V[x].toNat ≠ nn.toNat := bne_iff_ne.trans (not_congr BitVec.toNat_inj.symm)
  exact congrArg _ (s.skipIf_eq_add htest)

/-- A skip from 4092, 4093 or 4094 leaves no instruction to fetch (R68, R143). -/
theorem State.fetch_eq_none_after_skip (s : State) (hlo : 4092 ≤ s.pc.toNat) (hhi : s.pc.toNat ≤ 4094) :
    State.fetch { s with pc := s.pc + 4#16 } = none := by
  have hpc : (s.pc + 4#16).toNat = s.pc.toNat + 4 := BitVec.toNat_add_of_lt (by simp; omega)
  exact State.fetch_of_gt _ (by simp only [hpc]; omega)

/-! ### The obligations -/

/-- Settles O11: the word is an `encA` word, and the target, zero-extended, is the next pc. -/
theorem jumpSetsPc : Obligations.JumpSetsPc := by
  refine fun nnn => ⟨decodeWord_encA_jp nnn, fun s => ⟨exec_jp nnn s, fun hgt => State.fetch_of_gt _ ?_⟩⟩
  exact (zextAddr_toNat nnn).symm ▸ hgt

/-- Settles O12: the sum does not wrap, so the next pc is the exact sum. -/
theorem jumpWithOffsetAddsV0 : Obligations.JumpWithOffsetAddsV0 := by
  refine fun nnn => ⟨decodeWord_encA_jpV0 nnn, fun s => ⟨_, exec_jpV0 nnn s, ?_⟩⟩
  have hsum := zextAddr_add_zextByte_toNat nnn s.V[0]
  exact ⟨hsum, rfl, fun hgt => State.fetch_of_gt _ (hsum.symm ▸ hgt)⟩

/-- Settles O16: both words are `encXI` words, and each skip's test is the comparison of the values. -/
theorem immediateSkips : Obligations.ImmediateSkips := by
  intro x nn
  rw [← encXI_eq_ofNat, ← encXI_eq_ofNat]
  exact ⟨decodeWord_encXI_seImm x nn, decodeWord_encXI_sneImm x nn,
    fun s => ⟨exec_seImm x nn s, exec_sneImm x nn s, s.fetch_eq_none_after_skip⟩⟩

end Sys2Proof.Machine
end

section
/-! Proofs of the ALU family: the immediate load and the immediate add, with the 8-bit sum written as a number modulo 256. -/

namespace Sys2Proof.Machine

/-! ### Decoding, for every value of the operand fields (R92, R96) -/

theorem decodeWord_encXI_addImm (x : Reg) (nn : Byte) : decodeWord (encXI 0x7#4 x nn) = some (.addImm x nn) := by
  simp [decodeWord]

/-! ### The 8-bit sum (R182) -/

theorem byte_add_eq_ofNat (a b : Byte) : a + b = BitVec.ofNat 8 ((a.toNat + b.toNat) % 256) :=
  BitVec.eq_of_toNat_eq (by simp)

/-! ### Next states (R172) -/

theorem exec_addImm (x : Reg) (nn : Byte) (s : State) :
    exec (.addImm x nn) s = .next { s with
      V := s.V.set x (BitVec.ofNat 8 ((s.V[x].toNat + nn.toNat) % 256)), pc := s.pc + 2#16 } := by
  rw [← byte_add_eq_ofNat]
  rfl

/-- Settles O18: both words are `encXI` words, and neither next state writes a register other than V[x]. -/
theorem loadAndAddImmediate : Obligations.LoadAndAddImmediate := by
  intro x nn
  rw [← encXI_eq_ofNat, ← encXI_eq_ofNat]
  exact ⟨decodeWord_encXI_ldImm x nn, decodeWord_encXI_addImm x nn, fun s => ⟨exec_ldImm x nn s, exec_addImm x nn s⟩⟩

end Sys2Proof.Machine
end

section
/-! Proofs of the index family: the loads of I by an address and by the address of a glyph, whose product does not wrap. -/

namespace Sys2Proof.Machine

/-! ### Decoding, for every value of the operand fields (R92, R96) -/

theorem decodeWord_encXI_ldF (x : Reg) : decodeWord (encXI 0xF#4 x 0x29#8) = some (.ldF x) := by
  simp [decodeWord, decodeFamF]

/-! ### Next states (R200, R202) -/

theorem exec_ldI (nnn : Addr12) (s : State) :
    exec (.ldI nnn) s = .next { s with I := nnn.setWidth 16, pc := s.pc + 2#16 } := rfl

theorem exec_ldF (x : Reg) (s : State) :
    exec (.ldF x) s = .next { s with I := zextByte s.V[x] * 5#16, pc := s.pc + 2#16 } := rfl

/-- Five times a byte is at most 1275, so it fits 16 bits (R202). -/
theorem zextByte_mul_five_toNat (v : Byte) : (zextByte v * 5#16).toNat = v.toNat * 5 := by
  have hv := v.isLt
  have hfits : (zextByte v).toNat * (5#16).toNat < 2 ^ 16 := by
    rw [zextByte_toNat, BitVec.toNat_ofNat]
    omega
  rw [BitVec.toNat_mul_of_lt hfits, zextByte_toNat, BitVec.toNat_ofNat]

/-- Settles O23: the words are an `encA` and an `encXI` word, and each next state writes I and pc alone. -/
theorem setIndexAndGlyph : Obligations.SetIndexAndGlyph := by
  refine ⟨fun nnn => ⟨decodeWord_encA_ldI nnn, exec_ldI nnn⟩, fun x => ?glyph⟩
  case glyph =>
    rw [← encXI_eq_ofNat]
    exact ⟨decodeWord_encXI_ldF x, fun s => ⟨_, exec_ldF x s, zextByte_mul_five_toNat s.V[x], rfl, rfl⟩⟩

end Sys2Proof.Machine
end

section
/-! Proofs of the key and timer family: the two transfers between a register and the delay timer. -/

namespace Sys2Proof.Machine

/-! ### Decoding, for every value of the operand field (R92, R96) -/

theorem decodeWord_encXI_ldVDT (x : Reg) : decodeWord (encXI 0xF#4 x 0x07#8) = some (.ldVDT x) := by
  simp [decodeWord, decodeFamF]

theorem decodeWord_encXI_ldDTV (x : Reg) : decodeWord (encXI 0xF#4 x 0x15#8) = some (.ldDTV x) := by
  simp [decodeWord, decodeFamF]

/-! ### Next states (R232, R233) -/

theorem exec_ldVDT (x : Reg) (s : State) :
    exec (.ldVDT x) s = .next { s with V := s.V.set x s.DT, pc := s.pc + 2#16 } := rfl

theorem exec_ldDTV (x : Reg) (s : State) :
    exec (.ldDTV x) s = .next { s with DT := s.V[x], pc := s.pc + 2#16 } := rfl

/-- Settles O37: both words are `encXI` words, and each next state is one transfer of a whole byte and the advance. -/
theorem delayTimerTransfers : Obligations.DelayTimerTransfers := by
  intro x
  rw [← encXI_eq_ofNat, ← encXI_eq_ofNat]
  exact ⟨decodeWord_encXI_ldVDT x, decodeWord_encXI_ldDTV x, fun s => ⟨exec_ldVDT x s, exec_ldDTV x s⟩⟩

end Sys2Proof.Machine
end

section
/-! Proofs of the other encoding statements: `decodeWord` and `encode` are inverse to each other, and the words outside the
map are those of R97. Every decoding of an instruction's pattern follows from `decodeWord_encode`. -/

namespace Sys2Proof.Machine

/-! ### Decoding after encoding (R92, R96, R98) -/

/-- The words of each format decode through the fields that the format encodes; `n` of Dxyn needs its 4 bits. -/
theorem decodeWord_encode {i : Instr} (hi : i.wf = true) : decodeWord (encode i) = some i := by
  cases i
  case cls | ret => rfl
  case jp | call | ldI | jpV0 => simp [encode, decodeWord]
  case seImm | sneImm | ldImm | addImm | rnd => simp [encode, decodeWord]
  case seReg | sneReg => simp [encode, decodeWord]
  case ldReg | or | and | xor | addReg | sub | shr | subn | shl => simp [encode, decodeWord, decodeFam8]
  case drw x y n =>
    have hn : n % 16 = n := Nat.mod_eq_of_lt (by simpa [Instr.wf] using hi)
    simp [encode, decodeWord, hn]
  case skp | sknp => simp [encode, decodeWord, decodeFamE]
  case ldVDT | ldVK | ldDTV | ldSTV | addI | ldF | ldB | ldMemV | ldVMem => simp [encode, decodeWord, decodeFamF]

/-- Settles O1: format by format, the fields of the encoded word are the operands. -/
theorem decodeOfEncode : Obligations.DecodeOfEncode := fun _ hi => decodeWord_encode hi

/-- An instruction's pattern in format `XI` or `X`, its register field written as a number, decodes to it. -/
theorem decodeWord_ofNat_XI {i : Instr} {f : BitVec 4} {x : Reg} {nn : Byte} (hi : i.wf = true)
    (he : encode i = encXI f x nn) : decodeWord (f ++ BitVec.ofNat 4 x.val ++ nn) = some i := by
  rw [← encXI_eq_ofNat, ← he, decodeWord_encode hi]

/-- An instruction's pattern in format `XY` or `XYN`, its register fields written as numbers, decodes to it. -/
theorem decodeWord_ofNat_XYN {i : Instr} {f : BitVec 4} {x y : Reg} {g : BitVec 4} (hi : i.wf = true)
    (he : encode i = encXYN f x y g) :
    decodeWord (f ++ BitVec.ofNat 4 x.val ++ BitVec.ofNat 4 y.val ++ g) = some i := by
  rw [← regBits_eq_ofNat, ← regBits_eq_ofNat, ← encXYN, ← he, decodeWord_encode hi]

/-- Settles O5: 17 closed words, each decoded by evaluation. -/
theorem sampleWordsDecode : Obligations.SampleWordsDecode := by
  unfold Obligations.SampleWordsDecode
  decide

/-! ### Encoding after decoding (R98) -/

/-- A word is put together from its family and its address field. -/
theorem encA_fields {w : Word} {f : BitVec 4} (hf : famOf w = f) : encA f (fieldNNN w) = w := by
  apply BitVec.eq_of_toNat_eq
  rw [encA_toNat, ← hf, famOf_toNat, fieldNNN_toNat]
  omega

/-- A word is put together from its family, its register field and its immediate. -/
theorem encXI_fields {w : Word} {f : BitVec 4} (hf : famOf w = f) : encXI f (fieldX w) (fieldNN w) = w := by
  apply BitVec.eq_of_toNat_eq
  rw [encXI_toNat, ← hf, famOf_toNat, fieldX_val, fieldNN_toNat]
  omega

/-- A word is put together from its four nibbles. -/
theorem encXYN_fields {w : Word} {f : BitVec 4} (hf : famOf w = f) :
    encXYN f (fieldX w) (fieldY w) (fieldN w) = w := by
  apply BitVec.eq_of_toNat_eq
  rw [encXYN_toNat, ← hf, famOf_toNat, fieldX_val, fieldY_val, fieldN_toNat]
  omega

theorem encode_of_decodeFam0 {w : Word} {i : Instr} (h : decodeFam0 w = some i) : i.wf = true ∧ encode i = w := by
  unfold decodeFam0 at h
  split_ifs at h with hw hw <;> cases h <;> exact ⟨rfl, hw.symm⟩

theorem encode_of_decodeFam8 {x y : Reg} {g : BitVec 4} {i : Instr} (h : decodeFam8 x y g = some i) :
    i.wf = true ∧ encode i = encXYN 0x8#4 x y g := by
  unfold decodeFam8 at h
  split_ifs at h with hg hg hg hg hg hg hg hg hg <;> cases h <;> subst hg <;> exact ⟨rfl, rfl⟩

theorem encode_of_decodeFamE {x : Reg} {g : Byte} {i : Instr} (h : decodeFamE x g = some i) :
    i.wf = true ∧ encode i = encXI 0xE#4 x g := by
  unfold decodeFamE at h
  split_ifs at h with hg hg <;> cases h <;> subst hg <;> exact ⟨rfl, rfl⟩

theorem encode_of_decodeFamF {x : Reg} {g : Byte} {i : Instr} (h : decodeFamF x g = some i) :
    i.wf = true ∧ encode i = encXI 0xF#4 x g := by
  unfold decodeFamF at h
  split_ifs at h with hg hg hg hg hg hg hg hg hg <;> cases h <;> subst hg <;> exact ⟨rfl, rfl⟩

/-- The 16 families (R13, R91). -/
theorem famOf_cases (w : Word) :
    famOf w = 0x0#4 ∨ famOf w = 0x1#4 ∨ famOf w = 0x2#4 ∨ famOf w = 0x3#4 ∨ famOf w = 0x4#4 ∨ famOf w = 0x5#4 ∨
    famOf w = 0x6#4 ∨ famOf w = 0x7#4 ∨ famOf w = 0x8#4 ∨ famOf w = 0x9#4 ∨ famOf w = 0xA#4 ∨ famOf w = 0xB#4 ∨
    famOf w = 0xC#4 ∨ famOf w = 0xD#4 ∨ famOf w = 0xE#4 ∨ famOf w = 0xF#4 :=
  (by decide : ∀ f : BitVec 4, f = 0x0#4 ∨ f = 0x1#4 ∨ f = 0x2#4 ∨ f = 0x3#4 ∨ f = 0x4#4 ∨ f = 0x5#4 ∨
    f = 0x6#4 ∨ f = 0x7#4 ∨ f = 0x8#4 ∨ f = 0x9#4 ∨ f = 0xA#4 ∨ f = 0xB#4 ∨
    f = 0xC#4 ∨ f = 0xD#4 ∨ f = 0xE#4 ∨ f = 0xF#4) (famOf w)

/-- Settles O2: in each family the fields that the decoder reads, with the bits it fixes, make up the whole word. -/
theorem encodeOfDecode : Obligations.EncodeOfDecode := by
  intro w i h
  rcases famOf_cases w with hf | hf | hf | hf | hf | hf | hf | hf | hf | hf | hf | hf | hf | hf | hf | hf
  all_goals simp [decodeWord, hf] at h
  · exact encode_of_decodeFam0 h
  · subst h; exact ⟨rfl, encA_fields hf⟩
  · subst h; exact ⟨rfl, encA_fields hf⟩
  · subst h; exact ⟨rfl, encXI_fields hf⟩
  · subst h; exact ⟨rfl, encXI_fields hf⟩
  · obtain ⟨hg, rfl⟩ := h; exact ⟨rfl, by rw [encode, ← hg, encXYN_fields hf]⟩
  · subst h; exact ⟨rfl, encXI_fields hf⟩
  · subst h; exact ⟨rfl, encXI_fields hf⟩
  · exact encXYN_fields hf ▸ encode_of_decodeFam8 h
  · obtain ⟨hg, rfl⟩ := h; exact ⟨rfl, by rw [encode, ← hg, encXYN_fields hf]⟩
  · subst h; exact ⟨rfl, encA_fields hf⟩
  · subst h; exact ⟨rfl, encA_fields hf⟩
  · subst h; exact ⟨rfl, encXI_fields hf⟩
  · subst h
    refine ⟨decide_eq_true (fieldN w).isLt, ?_⟩
    rw [encode, BitVec.ofNat_toNat, BitVec.setWidth_eq]
    exact encXYN_fields hf
  · exact encXI_fields hf ▸ encode_of_decodeFamE h
  · exact encXI_fields hf ▸ encode_of_decodeFamF h

/-! ### The unknown words (R97) -/

theorem decodeFam0_eq_none {w : Word} : decodeFam0 w = none ↔ w.toNat ≠ 0x0E0 ∧ w.toNat ≠ 0x0EE := by
  simp only [decodeFam0, ← BitVec.toNat_inj, BitVec.toNat_ofNat]
  split_ifs <;> simp <;> omega

theorem decodeFam8_eq_none {x y : Reg} {g : BitVec 4} :
    decodeFam8 x y g = none ↔ g.toNat ∈ [8, 9, 10, 11, 12, 13, 15] := by
  have := g.isLt
  simp only [decodeFam8, ← BitVec.toNat_inj, BitVec.toNat_ofNat]
  split_ifs <;> simp <;> omega

theorem decodeFamE_eq_none {x : Reg} {g : Byte} : decodeFamE x g = none ↔ g.toNat ∉ [0x9E, 0xA1] := by
  simp only [decodeFamE, ← BitVec.toNat_inj, BitVec.toNat_ofNat]
  split_ifs <;> simp <;> omega

theorem decodeFamF_eq_none {x : Reg} {g : Byte} :
    decodeFamF x g = none ↔ g.toNat ∉ [0x07, 0x0A, 0x15, 0x18, 0x1E, 0x29, 0x33, 0x55, 0x65] := by
  simp only [decodeFamF, ← BitVec.toNat_inj, BitVec.toNat_ofNat]
  split_ifs <;> simp <;> omega

/-- Settles O3: family by family, the words that the family's decoder maps to nothing. -/
theorem unknownWordsAreThoseListed : Obligations.UnknownWordsAreThoseListed := by
  intro w
  rcases famOf_cases w with hf | hf | hf | hf | hf | hf | hf | hf | hf | hf | hf | hf | hf | hf | hf | hf
  all_goals
    have hfam := famOf_toNat w
    rw [hf] at hfam
    simp [decodeWord, hf, ← hfam, decodeFam0_eq_none, decodeFam8_eq_none, decodeFamE_eq_none, decodeFamF_eq_none,
      ← BitVec.toNat_inj, fieldN_toNat, fieldNN_toNat]

end Sys2Proof.Machine
end

section
/-! What an instruction can do, said once: it answers a next state, and that state is one of the forms of `Effect`. The
frames of all instructions and the writers' tables follow. -/

namespace Sys2Proof.Machine

/-! ### The forms of an instruction's next state -/

/-- `Effect s i t`: instruction `i`, executing in `s`, may leave `t`. Each form says which fields are written, by which
instructions, and how far pc can go. -/
inductive Effect (s : State) : Instr → State → Prop
  /-- A fatal fault of an instruction (R262); `FETCH_OOB` is none of them. -/
  | fault {i : Instr} (c : Cause) (info : FaultInfo) (hc : c ≠ .fetchOob) : Effect s i (s.raise c info)
  /-- Registers, by the table of R23. -/
  | regs {i : Instr} (V : Vector Byte 16) (hV : ∀ r : Reg, ¬ writesReg i r → V[r] = s.V[r]) :
      Effect s i { s with V := V, pc := s.pc + 2#16 }
  /-- pc alone: a skip, or a jump, which reaches 0x10FE at most (R29). -/
  | goto {i : Instr} (pc : Word) (hpc : pc.toNat ≤ s.pc.toNat + 4 ∨ pc.toNat ≤ 0x10FE) : Effect s i { s with pc := pc }
  /-- The index register (R31). -/
  | index {i : Instr} (I : Word) (hi : (∃ nnn, i = .ldI nnn) ∨ ∃ x, i = .addI x ∨ i = .ldF x) :
      Effect s i { s with I := I, pc := s.pc + 2#16 }
  /-- Successive bytes at I, inside the address space (R71). -/
  | store {i : Instr} (vs : List Byte) (hi : ∃ x, i = .ldB x ∨ i = .ldMemV x) (hfit : s.I.toNat + vs.length ≤ 4096) :
      Effect s i { s with M := s.M.writeBytes s.I.toNat vs, pc := s.pc + 2#16 }
  /-- The clear screen (R120). -/
  | clear : Effect s .cls { s with fb := blankScreen, pc := s.pc + 2#16 }
  /-- A completed draw: the frame, VF, one publish (R121). -/
  | draw (x y : Reg) (n : Nat) (fb : Framebuffer) (v : Byte) :
      Effect s (.drw x y n)
        { s with fb := fb, V := s.V.set 15 v, outputs := s.outputs ++ [.publish fb], pc := s.pc + 2#16 }
  /-- A call with a free stack entry (R142). -/
  | call (nnn : Addr12) (h : s.sp.val < 16) :
      Effect s (.call nnn) { s with
        stack := s.stack.set s.sp.val s.pc, sp := ⟨s.sp.val + 1, Nat.succ_lt_succ h⟩, pc := zextAddr nnn }
  /-- A return with a live stack entry (R140). -/
  | ret (h : 0 < s.sp.val) :
      Effect s .ret { s with sp := ⟨s.sp.val - 1, by omega⟩, pc := s.stack[s.sp.val - 1] + 2#16 }
  /-- The delay timer (R233). -/
  | setDelay (x : Reg) : Effect s (.ldDTV x) { s with DT := s.V[x], pc := s.pc + 2#16 }
  /-- The sound timer (R234). -/
  | setSound (x : Reg) : Effect s (.ldSTV x) { s with ST := s.V[x], pc := s.pc + 2#16 }
  /-- A register and one draw (R183). -/
  | random (x : Reg) (nn v : Byte) :
      Effect s (.rnd x nn) { s with V := s.V.set x v, draws := s.draws + 1, pc := s.pc + 2#16 }
  /-- The entry of a key wait, pc held (R235). -/
  | wait (x : Reg) : Effect s (.ldVK x) { s with run := .awaitingKey x, keyLatch := none }

/-! ### Next states with a case distinction, said once (R71, R140, R142, R230) -/

theorem exec_call_of_lt (nnn : Addr12) {s : State} (h : s.sp.val < 16) :
    exec (.call nnn) s = .next { s with
      stack := s.stack.set s.sp.val s.pc, sp := ⟨s.sp.val + 1, Nat.succ_lt_succ h⟩, pc := zextAddr nnn } := by
  simp only [exec, execCall, s.push_of_lt s.pc h]

theorem exec_call_of_full (nnn : Addr12) {s : State} (h : s.sp.val = 16) :
    exec (.call nnn) s = .next (s.raise .stackOverflow (.value 16)) := by
  simp only [exec, execCall, s.push_of_full s.pc h]

theorem exec_ret_of_pos {s : State} (h : 0 < s.sp.val) :
    exec .ret s = .next { s with sp := ⟨s.sp.val - 1, by omega⟩, pc := s.stack[s.sp.val - 1] + 2#16 } := by
  simp only [exec, execRet, s.pop_of_pos h]

theorem exec_ret_of_empty {s : State} (h : s.sp.val = 0) :
    exec .ret s = .next (s.raise .stackUnderflow (.value 0)) := by
  simp only [exec, execRet, s.pop_of_empty h]

theorem keyOperand_of_lt {x : Reg} {s : State} (h : s.V[x].toNat < 16) : keyOperand x s = some ⟨s.V[x].toNat, h⟩ :=
  dif_pos h

theorem keyOperand_of_ge {x : Reg} {s : State} (h : 16 ≤ s.V[x].toNat) : keyOperand x s = none :=
  dif_neg (Nat.not_lt.2 h)

theorem exec_skp_of_lt {x : Reg} {s : State} (h : s.V[x].toNat < 16) :
    exec (.skp x) s = .next (s.skipIf s.keys[s.V[x].toNat]) := by
  simp only [exec, execSkp, keyOperand_of_lt h]
  rfl

theorem exec_sknp_of_lt {x : Reg} {s : State} (h : s.V[x].toNat < 16) :
    exec (.sknp x) s = .next (s.skipIf !s.keys[s.V[x].toNat]) := by
  simp only [exec, execSknp, keyOperand_of_lt h]
  rfl

theorem exec_skp_of_ge {x : Reg} {s : State} (h : 16 ≤ s.V[x].toNat) :
    exec (.skp x) s = .next (s.raise .keyOob (.value s.V[x].toNat)) := by
  simp only [exec, execSkp, keyOperand_of_ge h]
  rfl

theorem exec_sknp_of_ge {x : Reg} {s : State} (h : 16 ≤ s.V[x].toNat) :
    exec (.sknp x) s = .next (s.raise .keyOob (.value s.V[x].toNat)) := by
  simp only [exec, execSknp, keyOperand_of_ge h]
  rfl

/-- An access of at least one byte is in range exactly when its last byte is at most 4095 (R71). -/
theorem rangeOob_eq_false {s : State} {n : Nat} : rangeOob s n = false ↔ n = 0 ∨ s.I.toNat + n ≤ 4096 := by
  rw [← Bool.not_eq_true, rangeOob_eq_true]
  omega

theorem exec_ldB_of_fit {x : Reg} {s : State} (h : s.I.toNat + 3 ≤ 4096) :
    exec (.ldB x) s = .next { s with M := s.M.writeBytes s.I.toNat (bcdDigits s.V[x]), pc := s.pc + 2#16 } :=
  withRange_of_in _ (rangeOob_eq_false.2 (.inr h))

theorem exec_ldMemV_of_fit {x : Reg} {s : State} (h : s.I.toNat + (x.val + 1) ≤ 4096) :
    exec (.ldMemV x) s = .next { s with M := s.M.writeBytes s.I.toNat (regsUpTo s x), pc := s.pc + 2#16 } :=
  withRange_of_in _ (rangeOob_eq_false.2 (.inr h))

theorem exec_ldVMem_of_fit {x : Reg} {s : State} (h : s.I.toNat + (x.val + 1) ≤ 4096) :
    exec (.ldVMem x) s = .next { s with V := loadUpTo s x, pc := s.pc + 2#16 } :=
  withRange_of_in _ (rangeOob_eq_false.2 (.inr h))

/-- A checked access past 4095 takes `MEM_OOB` (R71). -/
theorem withRange_of_exceed {n : Nat} {s : State} (go : State) (hn : 0 < n) (h : 4096 < s.I.toNat + n) :
    withRange n s go = .next (s.raise .memOob (.value (max s.I.toNat 4096))) :=
  withRange_of_oob go (rangeOob_eq_true.2 ⟨hn, by omega⟩)

theorem exec_ldB_of_exceed {x : Reg} {s : State} (h : 4096 < s.I.toNat + 3) :
    exec (.ldB x) s = .next (s.raise .memOob (.value (max s.I.toNat 4096))) :=
  withRange_of_exceed _ (by decide) h

theorem exec_ldMemV_of_exceed {x : Reg} {s : State} (h : 4096 < s.I.toNat + (x.val + 1)) :
    exec (.ldMemV x) s = .next (s.raise .memOob (.value (max s.I.toNat 4096))) :=
  withRange_of_exceed _ (Nat.succ_pos _) h

theorem exec_ldVMem_of_exceed {x : Reg} {s : State} (h : 4096 < s.I.toNat + (x.val + 1)) :
    exec (.ldVMem x) s = .next (s.raise .memOob (.value (max s.I.toNat 4096))) :=
  withRange_of_exceed _ (Nat.succ_pos _) h

theorem exec_drw_of_exceed {x y : Reg} {n : Nat} {s : State} (hn : 0 < n) (h : 4096 < s.I.toNat + n) :
    exec (.drw x y n) s = .next (s.raise .memOob (.value (max s.I.toNat 4096))) :=
  withRange_of_exceed _ hn h

/-- A draw past the edge takes `DRAW_OOB` with the first set bit off the grid (R124). -/
theorem exec_drw_of_offGrid {x y : Reg} {n : Nat} {s : State} {p : Nat × Nat} (h : n = 0 ∨ s.I.toNat + n ≤ 4096)
    (hp : (spriteOf x y n s).find? offGrid = some p) :
    exec (.drw x y n) s = .next (s.raise .drawOob (.pixel p.1 p.2)) := by
  simp only [exec, execDrw, withRange_of_in _ (rangeOob_eq_false.2 h), hp]

/-- A draw on the grid completes (R121). -/
theorem exec_drw_of_onGrid {x y : Reg} {n : Nat} {s : State} (h : n = 0 ∨ s.I.toNat + n ≤ 4096)
    (hp : (spriteOf x y n s).find? offGrid = none) :
    exec (.drw x y n) s = .next (finishDraw s (drawPixels s.fb (spriteOf x y n s))) := by
  simp only [exec, execDrw, withRange_of_in _ (rangeOob_eq_false.2 h), hp]

/-! ### Every instruction has one of the forms -/

theorem Effect.setReg {i : Instr} {x : Reg} {s : State} (v : Byte) (hx : writesReg i x) :
    Effect s i (s.setReg x v).advance :=
  .regs _ fun r hr => Vector.getElem_set_ne (Fin.is_lt x) (Fin.is_lt r) fun e => hr (Fin.ext e ▸ hx)

theorem Effect.finishFlagged {i : Instr} {x : Reg} {s : State} (v : Byte) (b : Bool) (hx : writesReg i x)
    (hf : writesReg i 15) : Effect s i (s.finishFlagged x v b) :=
  .regs _ fun r hr =>
    (Vector.getElem_set_ne (by decide) (Fin.is_lt r) fun e => hr ((Fin.ext e : (15 : Reg) = r) ▸ hf)).trans
      (Vector.getElem_set_ne (Fin.is_lt x) (Fin.is_lt r) fun e => hr (Fin.ext e ▸ hx))

theorem Effect.skipIf {i : Instr} {s : State} (b : Bool) : Effect s i (s.skipIf b) := by
  rw [State.skipIf_eq]
  refine .goto _ (.inl ?_)
  cases b <;> simp only [Bool.false_eq_true, if_true, if_false, BitVec.toNat_add, BitVec.toNat_ofNat] <;> omega

theorem loadUpTo_getElem (s : State) (x r : Reg) :
    (loadUpTo s x)[r] = if r ≤ x then s.M.read (s.I.toNat + r.val) else s.V[r] := by
  simp [loadUpTo, effAddr, State.reg]

/-- Every instruction answers a next state, of one of the forms. -/
theorem exec_effect (i : Instr) (s : State) : ∃ t, exec i s = .next t ∧ Effect s i t := by
  cases i with
  | cls => exact ⟨_, rfl, .clear⟩
  | ret =>
    rcases Nat.eq_zero_or_pos s.sp.val with h | h
    · exact ⟨_, exec_ret_of_empty h, .fault _ _ (by decide)⟩
    · exact ⟨_, exec_ret_of_pos h, .ret h⟩
  | call nnn =>
    rcases Nat.lt_or_ge s.sp.val 16 with h | h
    · exact ⟨_, exec_call_of_lt nnn h, .call nnn h⟩
    · exact ⟨_, exec_call_of_full nnn (by omega), .fault _ _ (by decide)⟩
  | jp nnn => exact ⟨_, rfl, .goto _ (.inr (by rw [zextAddr_toNat]; omega))⟩
  | jpV0 nnn => exact ⟨_, exec_jpV0 nnn s, .goto _ (.inr (by rw [zextAddr_add_zextByte_toNat]; omega))⟩
  | seImm | sneImm | seReg | sneReg => exact ⟨_, rfl, .skipIf _⟩
  | ldImm | addImm | ldReg | or | and | xor | ldVDT => exact ⟨_, rfl, .setReg _ rfl⟩
  | addReg | sub | shr | subn | shl => exact ⟨_, rfl, .finishFlagged _ _ (.inl rfl) (.inr rfl)⟩
  | ldI => exact ⟨_, rfl, .index _ (.inl ⟨_, rfl⟩)⟩
  | addI x => exact ⟨_, rfl, .index _ (.inr ⟨x, .inl rfl⟩)⟩
  | ldF x => exact ⟨_, rfl, .index _ (.inr ⟨x, .inr rfl⟩)⟩
  | rnd x nn => exact ⟨_, rfl, .random x nn _⟩
  | drw x y n =>
    by_cases h : n = 0 ∨ s.I.toNat + n ≤ 4096
    · cases hp : (spriteOf x y n s).find? offGrid with
      | some p => exact ⟨_, exec_drw_of_offGrid h hp, .fault _ _ (by decide)⟩
      | none => exact ⟨_, exec_drw_of_onGrid h hp, .draw x y n _ _⟩
    · exact ⟨_, exec_drw_of_exceed (by omega) (by omega), .fault _ _ (by decide)⟩
  | skp x =>
    rcases Nat.lt_or_ge s.V[x].toNat 16 with h | h
    · exact ⟨_, exec_skp_of_lt h, .skipIf _⟩
    · exact ⟨_, exec_skp_of_ge h, .fault _ _ (by decide)⟩
  | sknp x =>
    rcases Nat.lt_or_ge s.V[x].toNat 16 with h | h
    · exact ⟨_, exec_sknp_of_lt h, .skipIf _⟩
    · exact ⟨_, exec_sknp_of_ge h, .fault _ _ (by decide)⟩
  | ldVK x => exact ⟨_, rfl, .wait x⟩
  | ldDTV x => exact ⟨_, rfl, .setDelay x⟩
  | ldSTV x => exact ⟨_, rfl, .setSound x⟩
  | ldB x =>
    rcases Nat.lt_or_ge 4096 (s.I.toNat + 3) with h | h
    · exact ⟨_, exec_ldB_of_exceed h, .fault _ _ (by decide)⟩
    · exact ⟨_, exec_ldB_of_fit h, .store _ ⟨x, .inl rfl⟩ h⟩
  | ldMemV x =>
    rcases Nat.lt_or_ge 4096 (s.I.toNat + (x.val + 1)) with h | h
    · exact ⟨_, exec_ldMemV_of_exceed h, .fault _ _ (by decide)⟩
    · exact ⟨_, exec_ldMemV_of_fit h, .store _ ⟨x, .inr rfl⟩ (by rw [regsUpTo_length]; exact h)⟩
  | ldVMem x =>
    rcases Nat.lt_or_ge 4096 (s.I.toNat + (x.val + 1)) with h | h
    · exact ⟨_, exec_ldVMem_of_exceed h, .fault _ _ (by decide)⟩
    · exact ⟨_, exec_ldVMem_of_fit h, .regs _ fun r hr => (loadUpTo_getElem s x r).trans (if_neg hr)⟩

/-- The form of the next state that an instruction answered. -/
theorem effect_of_exec {i : Instr} {s t : State} (h : exec i s = .next t) : Effect s i t := by
  obtain ⟨u, hu, he⟩ := exec_effect i s
  exact Host.Outcome.next.inj (h.symm.trans hu) ▸ he

/-! ### Frames -/

/-- No form writes the keys, the log, `opcode`, `cycle_count`, the agenda or `justInitialized`. -/
theorem Effect.frame {i : Instr} {s t : State} (h : Effect s i t) :
    t.keys = s.keys ∧ t.advisory = s.advisory ∧ t.opcode = s.opcode ∧ t.cycleCount = s.cycleCount ∧
      t.agenda = s.agenda ∧ t.justInitialized = s.justInitialized := by
  cases h <;> exact ⟨rfl, rfl, rfl, rfl, rfl, rfl⟩

/-- Settles O9: `exec_effect` gives the next state, and no form of it writes those fields. -/
theorem everyInstructionAnswersNext : Obligations.EveryInstructionAnswersNext := by
  intro i s
  obtain ⟨t, ht, he⟩ := exec_effect i s
  exact ⟨t, ht, he.frame⟩

/-- Settles O57: of the forms, three write registers, and only those that the table gives the instruction. -/
theorem onlyTabledRegistersChange : Obligations.OnlyTabledRegistersChange := by
  intro i s t r h hr
  cases effect_of_exec h with
  | regs V hV => exact hV r hr
  | draw x y n fb v => exact Vector.getElem_set_ne (by decide) r.isLt fun e => hr (Fin.ext e).symm
  | random x nn v => exact Vector.getElem_set_ne x.isLt r.isLt fun e => hr (Fin.ext e).symm
  | fault | goto | index | store | clear | call | ret | setDelay | setSound | wait => rfl

/-- Settles O58: each form names the instructions that write each of the other fields. -/
theorem onlyTheirWritersChangeState : Obligations.OnlyTheirWritersChangeState := by
  intro i s t h
  cases effect_of_exec h with
  | fault => simp [State.raise]
  | index I hi => simp [hi]
  | store vs hi => simp [hi]
  | regs | goto | clear | draw | call | ret | setDelay | setSound | random | wait => simp

end Sys2Proof.Machine
end

section
/-! Proofs of the statements about the invariant: it holds at reset, and every step of every agent keeps it. -/

namespace Sys2Proof.Machine

/-! ### What the invariant says in each run state (R38, R39, R40) -/

theorem State.Inv.fault_none {s : State} (h : s.Inv) (hr : s.run ≠ .faulted) : s.fault = none := by
  rw [← Option.not_isSome_iff_eq_none]
  exact mt h.faultRecorded.2 hr

theorem State.Inv.latch_none {s : State} (h : s.Inv) (hr : ∀ x, s.run ≠ .awaitingKey x) : s.keyLatch = none := by
  rw [← Option.not_isSome_iff_eq_none]
  exact fun hl => (h.latchInWait hl).elim hr

/-- What there is to show of a running state. -/
theorem State.Inv.of_running {t : State} (hM : t.M.wf = true) (hpc : t.pc.toNat ≤ 0x10FE)
    (hstack : ∀ j : Fin 16, t.stack[j].toNat ≤ 4094) (hr : t.run = .running) (hf : t.fault = none)
    (hl : t.keyLatch = none) : t.Inv where
  memory := hM
  pcBound := hpc
  waitAtFetched := by simp [hr]
  stackBound := hstack
  faultRecorded := by simp [hr, hf]
  latchInWait := by simp [hl]

/-- The invariant speaks of memory, pc, the run state, the stack, the fault record and the latch only. -/
theorem State.Inv.congr {s t : State} (h : s.Inv) (hM : t.M = s.M) (hpc : t.pc = s.pc) (hr : t.run = s.run)
    (hs : t.stack = s.stack) (hf : t.fault = s.fault) (hl : t.keyLatch = s.keyLatch) : t.Inv where
  memory := hM ▸ h.memory
  pcBound := hpc ▸ h.pcBound
  waitAtFetched := by simpa only [hr, hpc] using h.waitAtFetched
  stackBound := by simpa only [hs] using h.stackBound
  faultRecorded := by simpa only [hr, hf] using h.faultRecorded
  latchInWait := by simpa only [hl, hr] using h.latchInWait

/-! ### Each update keeps it -/

/-- Fault entry: memory, pc and stack stay, the fault is recorded, and no latch is held outside a wait (R262). -/
theorem State.Inv.takeFault {s : State} (h : s.Inv) (hr : s.run = .running) (c : Cause) (w : Word) (info : FaultInfo) :
    (s.takeFault c w info).Inv where
  memory := h.memory
  pcBound := h.pcBound
  waitAtFetched := nofun
  stackBound := h.stackBound
  faultRecorded := by simp
  latchInWait := by simp [h.latch_none (by simp [hr])]

/-- The next sequential pc of a fetched instruction. -/
theorem add_two_toNat_le {pc : Word} (h : pc.toNat ≤ 4094) : (pc + 2#16).toNat ≤ 4096 := by
  rw [BitVec.toNat_add, BitVec.toNat_ofNat]
  omega

/-- A push stores the address of a fetched call (R33). -/
theorem stackBound_set {s : State} (h : s.Inv) (hpc : s.pc.toNat ≤ 4094) (hsp : s.sp.val < 16) (j : Fin 16) :
    (s.stack.set s.sp.val s.pc)[j].toNat ≤ 4094 := by
  simp only [Fin.getElem_fin, Vector.getElem_set]
  split
  · exact hpc
  · exact h.stackBound j

/-- An instruction fetched at pc keeps the invariant, whatever form its effect has. -/
theorem State.Inv.exec {i : Instr} {s t : State} (h : s.Inv) (hr : s.run = .running) (hpc : s.pc.toNat ≤ 4094)
    (he : Effect s i t) : t.Inv := by
  have hf : s.fault = none := h.fault_none (by simp [hr])
  have hl : s.keyLatch = none := h.latch_none (by simp [hr])
  have hnext : (s.pc + 2#16).toNat ≤ 0x10FE := (add_two_toNat_le hpc).trans (by decide)
  cases he with
  | fault c info => exact h.takeFault hr c s.opcode info
  | goto pc hgoto => exact .of_running h.memory (by simp only; omega) h.stackBound hr hf hl
  | store vs _ hfit => exact .of_running (Memory.wf_writeBytes h.memory _ _ hfit) hnext h.stackBound hr hf hl
  | call nnn hsp =>
    exact .of_running h.memory (by simp only [zextAddr_toNat]; omega) (stackBound_set h hpc hsp) hr hf hl
  | ret hsp =>
    have htop : s.stack[s.sp.val - 1].toNat ≤ 4094 := h.stackBound ⟨s.sp.val - 1, by omega⟩
    exact .of_running h.memory ((add_two_toNat_le htop).trans (by decide)) h.stackBound hr hf hl
  | wait x =>
    exact ⟨h.memory, h.pcBound, fun _ _ => hpc, h.stackBound, by simp [hf], nofun⟩
  | regs | index | clear | draw | setDelay | setSound | random => exact .of_running h.memory hnext h.stackBound hr hf hl

theorem State.Inv.retire {s : State} (h : s.Inv) : s.retire.Inv :=
  h.congr (by simp) (by simp) (by simp) (by simp) (by simp) (by simp)

theorem State.Inv.completeKeyWait {s : State} {x : Reg} (h : s.Inv) (hr : s.run = .awaitingKey x) (k : Key) :
    (completeKeyWait x k s).Inv :=
  .of_running h.memory ((add_two_toNat_le (h.waitAtFetched x hr)).trans (by decide)) h.stackBound rfl
    (h.fault_none (by simp [hr])) rfl

theorem State.Inv.initCore {s : State} (h : s.Inv) : s.initCore.Inv :=
  .of_running (by rw [State.initCore_M]; exact Memory.wf_writeBytes h.memory 0 font (by simp))
    (by simp) (by simp) rfl rfl rfl

theorem State.Inv.loadProgram {s : State} (h : s.Inv) (rom : List Byte) : (s.loadProgram rom).Inv := by
  rcases Nat.lt_or_ge 3584 rom.length with hlen | hlen
  · rw [State.loadProgram_of_gt s hlen]
    exact h.congr rfl rfl rfl rfl rfl rfl
  · rw [State.loadProgram_of_le s hlen]
    exact ⟨Memory.wf_writeBytes h.memory 512 rom (by omega), h.pcBound, h.waitAtFetched, h.stackBound, h.faultRecorded,
      h.latchInWait⟩

theorem State.Inv.press {s : State} (h : s.Inv) (k : Key) : (s.press k).Inv := by
  rcases s.press_cases k with he | he | ⟨hwait, -, -, he⟩ <;> rw [he]
  · exact h
  · exact h.congr rfl rfl rfl rfl rfl rfl
  · exact ⟨h.memory, h.pcBound, h.waitAtFetched, h.stackBound, h.faultRecorded, fun _ => hwait⟩

/-! ### The obligations -/

/-- Settles O54: memory lists nothing, pc is 512, the stack is 0, and the CPU runs with no fault and no latch. -/
theorem invariantAtReset : Obligations.InvariantAtReset :=
  .of_running State.reset_memory_wf (by decide) (by simp [State.reset]) rfl rfl rfl

/-- Settles O55: `step_cases` lists the steps, and each of their updates keeps the invariant. -/
theorem everyStepKeepsTheInvariant : Obligations.EveryStepKeepsTheInvariant := by
  intro s t h hstep
  rcases step_cases hstep with
    ⟨rest, -, hr, (⟨-, rfl⟩ | ⟨w, hw, -, rfl⟩ | ⟨w, i, u, hw, -, hu, rfl⟩)⟩ | ⟨rest, x, k, -, hr, -, rfl⟩ |
    ⟨rest, x, -, -, -, rfl⟩ | ⟨rest, -, rfl⟩ | ⟨rest, -, rfl⟩ | ⟨rom, rest, -, -, rfl⟩ | ⟨k, rest, -, rfl⟩ |
    ⟨k, rest, -, rfl⟩
  all_goals have hpast : State.Inv { s with agenda := rest, justInitialized := false } := h.congr rfl rfl rfl rfl rfl rfl
  · exact hpast.takeFault hr .fetchOob 0#16 (.value s.pc.toNat)
  · have hpc : s.pc.toNat ≤ 4094 := State.fetch_eq_some hw
    refine State.Inv.retire (.of_running h.memory ((add_two_toNat_le hpc).trans (by decide)) h.stackBound hr ?_ ?_)
    · exact h.fault_none (by simp [hr])
    · exact h.latch_none (by simp [hr])
  · have hfetched : (s.fetched w rest).Inv := h.congr rfl rfl rfl rfl rfl rfl
    exact (hfetched.exec hr (State.fetch_eq_some hw) (effect_of_exec hu)).retire
  · exact hpast.completeKeyWait hr k
  · exact hpast
  · exact hpast.congr rfl rfl rfl rfl rfl rfl
  · exact State.Inv.initCore (h.congr rfl rfl rfl rfl rfl rfl)
  · exact hpast.loadProgram rom
  · exact hpast.press k
  · exact hpast.congr rfl rfl rfl rfl rfl rfl

end Sys2Proof.Machine
end

section
/-! Proof that what is hidden from a program does not influence any step: states that differ in hidden items only step to
states that do, with the same outcome. -/

namespace Sys2Proof.Machine

/-! ### States that differ in hidden items only (R35, R47) -/

/-- `Alike s u`: `u` is `s` with other values in the items that `State.visible` erases; the live stack entries agree. -/
inductive Alike (s : State) : State → Prop
  | mk (opcode : Word) (cycleCount : Nat) (advisory : List Advisory) (outputs : List Output) (ST : Byte)
      (stack : Vector Word 16) (hlive : ∀ j : Fin 16, j.val < s.sp.val → stack[j] = s.stack[j]) :
      Alike s { s with
        opcode := opcode, cycleCount := cycleCount, advisory := advisory, outputs := outputs, ST := ST, stack := stack }

theorem alike_visible (s : State) : Alike s s.visible :=
  .mk _ _ _ _ _ _ fun j hj => by simp [hj]

/-- What the cycle reads is the same in alike states. -/
theorem Alike.cycle_eq {s u : State} (h : Alike s u) : u.run = s.run ∧ u.keyLatch = s.keyLatch ∧ u.fault = s.fault ∧
    u.pc = s.pc ∧ u.fetch = s.fetch ∧ u.nextTurn = s.nextTurn ∧ u.justInitialized = s.justInitialized := by
  cases h
  exact ⟨rfl, rfl, rfl, rfl, rfl, rfl, rfl⟩

/-- Alike states look alike to a program. -/
theorem Alike.visible_eq {s u : State} (h : Alike s u) : u.visible = s.visible := by
  obtain ⟨op, cc, adv, out, st, stack, hlive⟩ := h
  have hstack : (Vector.ofFn fun j : Fin 16 => if j.val < s.sp.val then stack[j] else 0#16) =
      Vector.ofFn fun j : Fin 16 => if j.val < s.sp.val then s.stack[j] else 0#16 :=
    congrArg _ (funext fun j => ite_congr rfl (hlive j) fun _ => rfl)
  simp only [State.visible, hstack]

/-- Outcomes that tell alike states apart in nothing: the same kind, the same reason, and alike next states. -/
inductive AlikeOutcome : Host.Outcome State Fault Refusal → Host.Outcome State Fault Refusal → Prop
  | next {t u : State} (h : Alike t u) : AlikeOutcome (.next t) (.next u)
  | fault (r : Fault) : AlikeOutcome (.fault r) (.fault r)
  | refused (r : Refusal) : AlikeOutcome (.refused r) (.refused r)

/-! ### Instructions (R47) -/

theorem Alike.raise {s u : State} (h : Alike s u) (hop : u.opcode = s.opcode) (c : Cause) (info : FaultInfo) :
    Alike (s.raise c info) (u.raise c info) := by
  obtain ⟨op, cc, adv, out, st, stack, hlive⟩ := h
  obtain rfl : op = s.opcode := hop
  exact .mk _ _ _ _ _ _ hlive

theorem Alike.skipIf {s u : State} (h : Alike s u) (b : Bool) : Alike (s.skipIf b) (u.skipIf b) := by
  obtain ⟨op, cc, adv, out, st, stack, hlive⟩ := h
  cases b <;> exact .mk _ _ _ _ _ _ hlive

/-- A range check reads I only (R71). -/
theorem AlikeOutcome.withRange {s u go go' : State} (n : Nat) (hI : u.I = s.I)
    (hraise : ∀ info, Alike (s.raise .memOob info) (u.raise .memOob info)) (hgo : Alike go go') :
    AlikeOutcome (withRange n s go) (withRange n u go') := by
  unfold Machine.withRange rangeOob firstOob
  rw [hI]
  split
  · exact .next (hraise _)
  · exact .next hgo

/-- A push keeps the live entries alike: the pushed one, and those below it (R33). -/
theorem live_set {a b : Vector Word 16} {n : Nat} (hn : n < 16) (h : ∀ j : Fin 16, j.val < n → a[j] = b[j]) (v : Word)
    (j : Fin 16) (hj : j.val < n + 1) : (a.set n v)[j] = (b.set n v)[j] := by
  simp only [Fin.getElem_fin, Vector.getElem_set]
  exact ite_congr rfl (fun _ => rfl) fun hne => h j (by omega)

/-- An instruction does not tell alike states with the same fetched word apart: what it reads is visible, but for `opcode`,
which a fault records. -/
theorem exec_alike (i : Instr) {s u : State} (h : Alike s u) (hop : u.opcode = s.opcode) :
    AlikeOutcome (exec i s) (exec i u) := by
  have hraise := h.raise hop
  have hskip := h.skipIf
  obtain ⟨op, cc, adv, out, st, stack, hlive⟩ := h
  cases i with
  | call nnn =>
    rcases Nat.lt_or_ge s.sp.val 16 with hsp | hsp
    · rw [exec_call_of_lt nnn hsp, exec_call_of_lt nnn (by exact hsp)]
      exact .next (.mk _ _ _ _ _ _ (live_set hsp hlive s.pc))
    · rw [exec_call_of_full nnn (by omega), exec_call_of_full nnn (by simp only; omega)]
      exact .next (hraise _ _)
  | ret =>
    rcases Nat.eq_zero_or_pos s.sp.val with hsp | hsp
    · rw [exec_ret_of_empty hsp, exec_ret_of_empty (by exact hsp)]
      exact .next (hraise _ _)
    · rw [exec_ret_of_pos hsp, exec_ret_of_pos (by exact hsp)]
      have htop : stack[s.sp.val - 1] = s.stack[s.sp.val - 1] := hlive ⟨s.sp.val - 1, by omega⟩ (by simp only; omega)
      simp only [htop]
      exact .next (.mk _ _ _ _ _ _ fun j hj => hlive j (by simp only at hj; omega))
  | drw x y n =>
    by_cases h : n = 0 ∨ s.I.toNat + n ≤ 4096
    · cases hp : (spriteOf x y n s).find? offGrid with
      | some p =>
        rw [exec_drw_of_offGrid h hp, exec_drw_of_offGrid (by exact h) (by exact hp)]
        exact .next (hraise _ _)
      | none =>
        rw [exec_drw_of_onGrid h hp, exec_drw_of_onGrid (by exact h) (by exact hp)]
        exact .next (.mk _ _ _ _ _ _ hlive)
    · rw [exec_drw_of_exceed (by omega) (by omega), exec_drw_of_exceed (by omega) (by simp only; omega)]
      exact .next (hraise _ _)
  | skp x =>
    rcases Nat.lt_or_ge s.V[x].toNat 16 with h | h
    · rw [exec_skp_of_lt h, exec_skp_of_lt (by exact h)]
      exact .next (hskip _)
    · rw [exec_skp_of_ge h, exec_skp_of_ge (by exact h)]
      exact .next (hraise _ _)
  | sknp x =>
    rcases Nat.lt_or_ge s.V[x].toNat 16 with h | h
    · rw [exec_sknp_of_lt h, exec_sknp_of_lt (by exact h)]
      exact .next (hskip _)
    · rw [exec_sknp_of_ge h, exec_sknp_of_ge (by exact h)]
      exact .next (hraise _ _)
  | ldB | ldMemV | ldVMem => exact .withRange _ rfl (hraise _) (.mk _ _ _ _ _ _ hlive)
  | seImm | sneImm | seReg | sneReg => exact .next (hskip _)
  | cls | jp | jpV0 | ldImm | addImm | ldReg | or | and | xor | addReg | sub | shr | subn | shl | ldI | rnd | ldVDT | ldVK
  | ldDTV | ldSTV | addI | ldF => exact .next (.mk _ _ _ _ _ _ hlive)

/-! ### Turns and steps -/

theorem Alike.retire {s u : State} (h : Alike s u) : Alike s.retire u.retire := by
  obtain ⟨op, cc, adv, out, st, stack, hlive⟩ := h
  rw [State.retire_eq, State.retire_eq]
  exact .mk _ _ _ _ _ _ hlive

theorem AlikeOutcome.retire {o o' : Host.Outcome State Fault Refusal} (h : AlikeOutcome o o') :
    AlikeOutcome (retireOutcome o) (retireOutcome o') := by
  cases h with
  | next h => exact .next h.retire
  | fault r => exact .fault r
  | refused r => exact .refused r

theorem Alike.completeKeyWait {s u : State} (h : Alike s u) (x : Reg) (k : Key) :
    Alike (completeKeyWait x k s) (completeKeyWait x k u) := by
  obtain ⟨op, cc, adv, out, st, stack, hlive⟩ := h
  exact .mk _ _ _ _ _ _ hlive

theorem Alike.press {s u : State} (h : Alike s u) (k : Key) : Alike (s.press k) (u.press k) := by
  obtain ⟨op, cc, adv, out, st, stack, hlive⟩ := h
  unfold State.press
  simp only
  split
  · exact .mk _ _ _ _ _ _ hlive
  · split <;> exact .mk _ _ _ _ _ _ hlive

theorem Alike.loadProgram {s u : State} (h : Alike s u) (rom : List Byte) :
    Alike (s.loadProgram rom) (u.loadProgram rom) := by
  obtain ⟨op, cc, adv, out, st, stack, hlive⟩ := h
  unfold State.loadProgram
  split <;> exact .mk _ _ _ _ _ _ hlive

theorem Alike.initCore {s u : State} (h : Alike s u) : Alike s.initCore u.initCore := by
  obtain ⟨op, cc, adv, out, st, stack, hlive⟩ := h
  unfold State.initCore State.publish
  simp only
  generalize s.M.writeBytes Config.fontBase font = M
  exact .mk _ _ _ _ _ _ fun _ _ => rfl

/-- A running CPU fetches the same word in alike states, and does the same with it. -/
theorem cpuRunning_alike {s u : State} (h : Alike s u) : AlikeOutcome (cpuRunning s) (cpuRunning u) := by
  obtain ⟨-, -, -, hpc, hfetch, -, -⟩ := h.cycle_eq
  rcases cpuRunning_cases s with ⟨hgt, hs⟩ | ⟨w, hw, hd, hs⟩ | ⟨w, i, hw, hd, hs⟩ <;> rw [hs]
  · rw [cpuRunning_of_oob (hpc ▸ hgt)]
    obtain ⟨op, cc, adv, out, st, stack, hlive⟩ := h
    exact .next (.mk _ _ _ _ _ _ hlive)
  · rw [cpuRunning_of_unknown (hfetch.trans hw) hd]
    obtain ⟨op, cc, adv, out, st, stack, hlive⟩ := h
    exact .next (Alike.retire (.mk _ _ _ _ _ _ hlive))
  · rw [cpuRunning_of_instr (hfetch.trans hw) hd]
    have hfetched : Alike { s with opcode := w } { u with opcode := w } := by
      obtain ⟨op, cc, adv, out, st, stack, hlive⟩ := h
      exact .mk _ _ _ _ _ _ hlive
    exact (exec_alike i hfetched rfl).retire

theorem cpuStep_alike {s u : State} (h : Alike s u) : AlikeOutcome (cpuStep s) (cpuStep u) := by
  obtain ⟨hrun, hlatch, hfault, -, -, -, -⟩ := h.cycle_eq
  cases hr : s.run with
  | running =>
    rw [cpuStep_of_running hr, cpuStep_of_running (hrun.trans hr)]
    exact cpuRunning_alike h
  | awaitingKey x =>
    cases hk : s.keyLatch with
    | some k =>
      rw [cpuStep_of_latched hr hk, cpuStep_of_latched (hrun.trans hr) (hlatch.trans hk)]
      exact .next (h.completeKeyWait x k)
    | none =>
      rw [cpuStep_of_held hr hk, cpuStep_of_held (hrun.trans hr) (hlatch.trans hk)]
      exact .next h
  | faulted =>
    rw [cpuStep_of_faulted hr, cpuStep_of_faulted (hrun.trans hr), hfault]
    exact .fault _

/-- No agent's turn tells alike states apart. -/
theorem turn_alike (e : Event) {s u : State} (h : Alike s u) : AlikeOutcome (turn e s) (turn e u) := by
  obtain ⟨-, -, -, -, -, -, hjust⟩ := h.cycle_eq
  have hleave : Alike s.leaveInit u.leaveInit := by
    obtain ⟨op, cc, adv, out, st, stack, hlive⟩ := h
    exact .mk _ _ _ _ _ _ hlive
  cases e with
  | cpu => exact cpuStep_alike hleave
  | init => exact .next h.initCore
  | press k => exact .next (hleave.press k)
  | load rom =>
    cases hj : s.justInitialized with
    | true =>
      rw [turn_load rom hj, turn_load rom (hjust.trans hj)]
      exact .next (hleave.loadProgram rom)
    | false =>
      simp only [turn, hj, hjust]
      exact .refused _
  | tick | release =>
    obtain ⟨op, cc, adv, out, st, stack, hlive⟩ := h
    exact .next (.mk _ _ _ _ _ _ hlive)

theorem step_alike {s u : State} (h : Alike s u) : AlikeOutcome (step s) (step u) := by
  obtain ⟨op, cc, adv, out, st, stack, hlive⟩ := h
  exact turn_alike s.nextTurn.1 (.mk _ _ _ _ _ _ hlive)

/-- Settles O56: a state and what a program sees of it are alike, and steps keep that. -/
theorem hiddenStateDoesNotInfluence : Obligations.HiddenStateDoesNotInfluence := by
  intro s
  have hstep := step_alike (alike_visible s)
  refine ⟨fun t ht => ?_, fun r hr => ?_, fun r hr => ?_⟩
  · rw [ht] at hstep
    generalize step s.visible = o at hstep ⊢
    cases hstep with
    | next h => exact ⟨_, rfl, h.visible_eq⟩
  · rw [hr] at hstep
    generalize step s.visible = o at hstep ⊢
    cases hstep
    rfl
  · rw [hr] at hstep
    generalize step s.visible = o at hstep ⊢
    cases hstep
    rfl

end Sys2Proof.Machine
end

section
/-! Proofs of the statements about the CPU's cycle, faults, the logs and the spin halt. -/

namespace Sys2Proof.Machine

/-! ### The steps of a running CPU on its turn, said once (R68, R94, R97) -/

section CpuTurn

variable {s : State} {rest : List Event} (hc : s.CpuTurn rest) (hr : s.run = .running)

include hc hr

theorem step_running : step s = cpuRunning { s with agenda := rest, justInitialized := false } := by
  rw [step_of_cpuTurn hc, cpuStep_of_running (by exact hr)]

theorem step_of_fetchOob (h : s.pc.toNat > 4094) :
    step s = .next (State.raiseFetch { s with agenda := rest, justInitialized := false }) := by
  rw [step_running hc hr, cpuRunning_of_oob (by exact h)]

theorem step_of_unknown {w : Word} (hf : s.fetch = some w) (hd : decodeWord w = none) :
    step s = .next ((s.fetched w rest).report w s.pc).advance.retire := by
  rw [step_running hc hr, cpuRunning_of_unknown (by exact hf) hd]
  rfl

theorem step_of_exec {w : Word} {i : Instr} {t : State} (hf : s.fetch = some w) (hd : decodeWord w = some i)
    (hx : exec i (s.fetched w rest) = .next t) : step s = .next t.retire := by
  rw [step_running hc hr, cpuRunning_of_instr (by exact hf) hd]
  exact congrArg retireOutcome hx

/-- The three ways a running CPU steps, with the next state of each. -/
theorem step_running_cases {t : State} (h : step s = .next t) :
    (s.pc.toNat > 4094 ∧ t = State.raiseFetch { s with agenda := rest, justInitialized := false }) ∨
    (∃ w, s.fetch = some w ∧ decodeWord w = none ∧ t = ((s.fetched w rest).report w s.pc).advance.retire) ∨
    (∃ w i u, s.fetch = some w ∧ decodeWord w = some i ∧ exec i (s.fetched w rest) = .next u ∧ t = u.retire) := by
  rcases cpuRunning_cases { s with agenda := rest, justInitialized := false } with
    ⟨hpc, -⟩ | ⟨w, hf, hd, -⟩ | ⟨w, i, hf, hd, -⟩
  · rw [step_of_fetchOob hc hr hpc] at h
    exact .inl ⟨hpc, (Host.Outcome.next.inj h).symm⟩
  · rw [step_of_unknown hc hr hf hd] at h
    exact .inr (.inl ⟨w, hf, hd, (Host.Outcome.next.inj h).symm⟩)
  · obtain ⟨u, hu, -⟩ := exec_effect i (s.fetched w rest)
    rw [step_of_exec hc hr hf hd hu] at h
    exact .inr (.inr ⟨w, i, u, hf, hd, hu, (Host.Outcome.next.inj h).symm⟩)

end CpuTurn

/-- A running state is retired by counting one cycle (R43). -/
theorem State.retire_of_running {s : State} (hr : s.run = .running) :
    s.retire = { s with cycleCount := s.cycleCount + 1 } := by
  rw [State.retire_eq, if_neg (by simp [hr])]

/-- Settles O6: up to 4094 the fetch composes two bytes, and above it the step is the fault entry. -/
theorem fetchIsBigEndianAndBounded : Obligations.FetchIsBigEndianAndBounded := by
  refine fun s => ⟨fun hle => ⟨_, s.fetch_of_le hle, composeWord_toNat _ _⟩, fun hgt => ⟨s.fetch_of_gt hgt, ?_⟩⟩
  exact fun rest hc hr => step_of_fetchOob hc hr hgt

/-- Settles O7: the step is the instruction's next state, retired. -/
theorem stepRunsDecodedInstruction : Obligations.StepRunsDecodedInstruction := by
  intro s t rest w i hc hr hf hd hx
  rw [step_of_exec hc hr hf hd hx, State.retire_eq]

/-- Settles O8: the step reports the word, advances, and counts one cycle, as the CPU still runs. -/
theorem unknownWordIsLoggedAndSkipped : Obligations.UnknownWordIsLoggedAndSkipped := by
  intro s rest w hc hr hf hd
  rw [step_of_unknown hc hr hf hd, State.retire_of_running (by exact hr)]
  rfl

/-! ### The steps of the timer and the host but Initialize (R275, R282, R283, R303) -/

/-- It is the CPU's turn, or that of another agent at the head of the agenda. -/
theorem cpuTurn_or_agenda (s : State) :
    (∃ rest, s.CpuTurn rest) ∨ ∃ e rest, s.agenda = e :: rest ∧ e ≠ .cpu := by
  cases ha : s.agenda with
  | nil => exact .inl ⟨[], State.cpuTurn_iff.2 (.inl ⟨ha, rfl⟩)⟩
  | cons e rest =>
    by_cases he : e = .cpu
    · exact .inl ⟨rest, State.cpuTurn_iff.2 (.inr (he ▸ ha))⟩
    · exact .inr ⟨e, rest, rfl, he⟩

/-- A load that is performed follows an Initialize directly, and is LoadProgram past its turn (R306). -/
theorem turn_load_next {s t : State} {rom : List Byte} (h : turn (.load rom) s = .next t) :
    s.justInitialized = true ∧ t = s.leaveInit.loadProgram rom := by
  cases hj : s.justInitialized with
  | true => exact ⟨rfl, (Host.Outcome.next.inj ((turn_load rom hj).symm.trans h)).symm⟩
  | false => simp [turn, hj] at h

/-- A load writes memory or reports a failure. -/
theorem State.loadProgram_cases (s : State) (rom : List Byte) :
    s.loadProgram rom = { s with outputs := s.outputs ++ [.capacityExceeded] } ∨
      s.loadProgram rom = { s with M := s.M.writeBytes 512 rom } := by
  rcases Nat.lt_or_ge 3584 rom.length with h | h
  · exact .inl (s.loadProgram_of_gt h)
  · exact .inr (s.loadProgram_of_le h)

/-- What no turn of the timer or the host but Initialize writes; the latch too stays, but for the press of a released
key. -/
theorem turn_frame {e : Event} {s t : State} (h : turn e s = .next t) (hcpu : e ≠ .cpu) (hinit : e ≠ .init) :
    t.run = s.run ∧ t.fault = s.fault ∧ t.cycleCount = s.cycleCount ∧ t.pc = s.pc ∧ t.V = s.V ∧
      t.justInitialized = false ∧ ((∀ k, e = .press k → s.keys[k] = true) → t.keyLatch = s.keyLatch) := by
  cases e with
  | cpu => exact absurd rfl hcpu
  | init => exact absurd rfl hinit
  | tick | release => cases h; exact ⟨rfl, rfl, rfl, rfl, rfl, rfl, fun _ => rfl⟩
  | load rom =>
    obtain ⟨-, rfl⟩ := turn_load_next h
    rcases s.leaveInit.loadProgram_cases rom with he | he <;> rw [he] <;> exact ⟨rfl, rfl, rfl, rfl, rfl, rfl, fun _ => rfl⟩
  | press k =>
    cases h
    rcases s.leaveInit.press_cases k with he | he | ⟨-, -, hk, he⟩ <;> rw [he]
    · exact ⟨rfl, rfl, rfl, rfl, rfl, rfl, fun _ => rfl⟩
    · exact ⟨rfl, rfl, rfl, rfl, rfl, rfl, fun _ => rfl⟩
    · exact ⟨rfl, rfl, rfl, rfl, rfl, rfl, fun hheld => absurd (hheld k rfl) (by simpa using hk)⟩

/-! ### `cycle_count` (R43) -/

/-- Settles O10: retiring counts a CPU step that did not fault, a completed wait counts itself, and no step of another
agent but Initialize writes the counter. -/
theorem cycleCountCountsCompletedCpuSteps : Obligations.CycleCountCountsCompletedCpuSteps := by
  intro s t h
  refine ⟨fun rest hc hr => ?run, fun rest x hc hr => ?wait, fun e rest ha he => ?other⟩
  case run =>
    rcases step_running_cases hc hr h with ⟨-, rfl⟩ | ⟨w, -, -, rfl⟩ | ⟨w, i, u, -, -, hu, rfl⟩
    · simp
    · simp [hr]
    · obtain ⟨-, -, -, hcycle, -⟩ := (effect_of_exec hu).frame
      simp [hcycle]
  case wait =>
    rw [step_of_cpuTurn hc] at h
    cases hk : s.keyLatch with
    | some k => rw [cpuStep_of_latched (by exact hr) (by exact hk)] at h; cases h; rfl
    | none => rw [cpuStep_of_held (by exact hr) (by exact hk)] at h; cases h; rfl
  case other =>
    rw [step_of_agenda ha] at h
    by_cases hinit : e = .init
    · subst hinit; cases h; rfl
    · obtain ⟨-, -, hcycle, -⟩ := turn_frame h he hinit
      rw [hcycle, if_neg hinit]

/-! ### Faults (R262, R263) -/

theorem State.retire_of_faulted {s : State} (hr : s.run = .faulted) : s.retire = s := if_pos hr

/-- Settles O46: of the ways a running CPU steps, `raiseFetch` and an instruction's `raise` are those that end in
`Faulted`. -/
theorem faultsArePrecise : Obligations.FaultsArePrecise := by
  intro s t rest hc hr hs ht
  rcases step_running_cases hc hr hs with ⟨-, rfl⟩ | ⟨w, -, -, rfl⟩ | ⟨w, i, u, hw, -, hu, rfl⟩
  · exact ⟨_, rfl, rfl, fun _ => ⟨rfl, rfl⟩, fun hne => absurd rfl hne, rfl⟩
  · simp [hr] at ht
  · rw [State.retire_run] at ht
    rcases exec_cases hu with ⟨c, info, hne, rfl⟩ | ⟨x, -, rfl⟩ | ⟨-, hrun, -, -⟩
    · rw [State.retire_of_faulted rfl]
      exact ⟨_, rfl, rfl, fun he => absurd he hne, fun _ => ⟨hw, rfl⟩, rfl⟩
    · cases ht
    · rw [hrun] at ht
      exact absurd (hr.symm.trans ht) (by decide)

/-- Settles O47: the CPU's turn stops the machine, and the turns of the others but Initialize leave run state and
record. -/
theorem faultedLastsUntilInitialize : Obligations.FaultedLastsUntilInitialize := by
  intro s hr
  have hstop : ∀ rest, s.CpuTurn rest → step s = .fault (.cpuFaulted s.fault) := fun rest hc => by
    rw [step_of_cpuTurn hc, cpuStep_of_faulted (by exact hr)]
  refine ⟨hstop, fun t hs hinit => ?_⟩
  rcases cpuTurn_or_agenda s with ⟨rest, hc⟩ | ⟨e, rest, ha, he⟩
  · rw [hstop rest hc] at hs
    cases hs
  · rw [step_of_agenda ha] at hs
    obtain ⟨hrun, hfault, -⟩ := turn_frame hs he fun h => hinit rest (h ▸ ha)
    exact ⟨hrun.trans hr, hfault⟩

/-! ### The logs (R41, R86, R280) -/

/-- `m` is `l` with at most one entry after it. -/
def GrowsByOne {α : Type} (l m : List α) : Prop := ∃ a, m = l ++ a ∧ a.length ≤ 1

theorem GrowsByOne.refl {α : Type} (l : List α) : GrowsByOne l l := ⟨[], by simp⟩

theorem GrowsByOne.snoc {α : Type} (l : List α) (a : α) : GrowsByOne l (l ++ [a]) := ⟨[a], by simp⟩

/-- An instruction publishes at most one frame. -/
theorem Effect.outputs {i : Instr} {s t : State} (h : Effect s i t) : GrowsByOne s.outputs t.outputs := by
  cases h with
  | draw => exact .snoc _ _
  | fault | regs | goto | index | store | clear | call | ret | setDelay | setSound | random | wait => exact .refl _

/-- Settles O59: of the steps, the unknown word reports once, the draw, Initialize and a failed load hand out one output, and
Initialize alone empties the log. -/
theorem logsOnlyGrow : Obligations.LogsOnlyGrow := by
  intro s t h
  show GrowsByOne s.outputs t.outputs ∧ ((∃ rest, s.agenda = .init :: rest) ∨ GrowsByOne s.advisory t.advisory)
  rcases step_cases h with
    ⟨rest, -, -, (⟨-, rfl⟩ | ⟨w, -, -, rfl⟩ | ⟨w, i, u, -, -, hu, rfl⟩)⟩ | ⟨rest, x, k, -, -, -, rfl⟩ |
    ⟨rest, x, -, -, -, rfl⟩ | ⟨rest, -, rfl⟩ | ⟨rest, ha, rfl⟩ | ⟨rom, rest, -, -, rfl⟩ | ⟨k, rest, -, rfl⟩ |
    ⟨k, rest, -, rfl⟩
  · exact ⟨.refl _, .inr (.refl _)⟩
  · rw [State.retire_outputs, State.retire_advisory]
    exact ⟨.refl _, .inr (.snoc _ _)⟩
  · have he := effect_of_exec hu
    obtain ⟨-, hadv, -⟩ := he.frame
    rw [State.retire_outputs, State.retire_advisory, hadv]
    exact ⟨he.outputs, .inr (.refl _)⟩
  · exact ⟨.refl _, .inr (.refl _)⟩
  · exact ⟨.refl _, .inr (.refl _)⟩
  · exact ⟨.refl _, .inr (.refl _)⟩
  · exact ⟨.snoc _ _, .inl ⟨rest, ha⟩⟩
  · rcases State.loadProgram_cases { s with agenda := rest, justInitialized := false } rom with he | he <;> rw [he]
    · exact ⟨.snoc _ _, .inr (.refl _)⟩
    · exact ⟨.refl _, .inr (.refl _)⟩
  · rcases State.press_cases { s with agenda := rest, justInitialized := false } k with he | he | ⟨-, -, -, he⟩ <;> rw [he]
    all_goals exact ⟨.refl _, .inr (.refl _)⟩
  · exact ⟨.refl _, .inr (.refl _)⟩

/-! ### The spin halt (R313) -/

/-- A halted state steps to itself, but for the word, the cycle and the turn, and is halted again. -/
theorem State.Halted.step {s : State} {rest : List Event} (h : s.Halted) (hc : s.CpuTurn rest) :
    ∃ w, s.fetch = some w ∧
      step s = .next { s with
        opcode := w, cycleCount := s.cycleCount + 1, agenda := rest, justInitialized := false } ∧
      State.Halted { s with
        opcode := w, cycleCount := s.cycleCount + 1, agenda := rest, justInitialized := false } := by
  obtain ⟨hr, hfault, w, nnn, hf, hd, htarget⟩ := h
  have hpc : zextAddr nnn = s.pc := BitVec.eq_of_toNat_eq (by rw [zextAddr_toNat, htarget])
  refine ⟨w, hf, ?_, hr, hfault, w, nnn, hf, hd, htarget⟩
  rw [step_of_exec hc hr hf hd (exec_jp nnn _), State.retire_of_running (by exact hr)]
  exact congrArg (fun pc => Host.Outcome.next { s with
    pc := pc, opcode := w, cycleCount := s.cycleCount + 1, agenda := rest, justInitialized := false }) hpc

/-- Settles O60: the halted step, twice; the second finds its word in `opcode` already. -/
theorem spinHaltLeavesStateUnchanged : Obligations.SpinHaltLeavesStateUnchanged := by
  intro s rest h hc
  obtain ⟨w, hf, hs, ht⟩ := h.step hc
  refine ⟨_, w, hs, hf, rfl, ht, fun hw => by rw [← hw], fun rest' hc' => ?_⟩
  obtain ⟨w', hf', hs', -⟩ := ht.step hc'
  obtain rfl : w' = w := Option.some.inj (hf'.symm.trans hf)
  exact hs'

end Sys2Proof.Machine
end

section
/-! Proofs of the other control and ALU statements: call and return, the register skips, copies, logic, the flagged
operations and the random AND. -/

namespace Sys2Proof.Machine

/-! ### Call and return (R140, R142) -/

/-- Settles O13: with a free entry the push stores at sp and nothing else in the stack changes; without one the call faults. -/
theorem callPushesItsAddress : Obligations.CallPushesItsAddress := by
  refine fun nnn => ⟨decodeWord_encode (i := .call nnn) rfl, fun s => ⟨fun hlt => ?_, exec_call_of_full nnn⟩⟩
  refine ⟨_, exec_call_of_lt nnn hlt, rfl, rfl, fun j => ?_, rfl⟩
  simp only [Fin.getElem_fin, Vector.getElem_set, eq_comm]

/-- A return with `j + 1` live entries pops entry `j` (R33, R140). -/
theorem exec_ret_of_succ {s : State} {j : Fin 16} (h : s.sp.val = j.val + 1) :
    exec .ret s = .next { s with pc := s.stack[j] + 2#16, sp := j.castSucc } := by
  have hsub : s.sp.val - 1 = j.val := by omega
  rw [exec_ret_of_pos (by omega)]
  simp only [hsub]
  rfl

/-- Settles O14: the popped entry is the one below sp. -/
theorem returnPopsAndAdvances : Obligations.ReturnPopsAndAdvances :=
  ⟨decodeWord_encode (i := .ret) rfl, fun _ => ⟨fun _ => exec_ret_of_succ, exec_ret_of_empty⟩⟩

/-- Settles O15: the return pops the entry that the call pushed, and the entries below it are the caller's. -/
theorem returnResumesAfterCall : Obligations.ReturnResumesAfterCall := by
  intro nnn s t u hlt hcall hsp hlive
  rw [exec_call_of_lt nnn hlt] at hcall
  cases hcall
  have hpushed : u.stack[(⟨s.sp.val, hlt⟩ : Fin 16)] = s.pc := (hlive ⟨s.sp.val, hlt⟩ (by simp)).trans (by simp)
  refine ⟨?_, fun j hj => ?_⟩
  · rw [exec_ret_of_succ (j := ⟨s.sp.val, hlt⟩) (congrArg Fin.val hsp), hpushed]
    rfl
  · exact (hlive j (by simp only; omega)).trans (Vector.getElem_set_ne hlt j.isLt (by omega))

/-! ### Register skips (R145, R146) -/

theorem exec_seReg (x y : Reg) (s : State) :
    exec (.seReg x y) s = .next { s with pc := s.pc + if s.V[x].toNat = s.V[y].toNat then 4#16 else 2#16 } :=
  exec_seImm x s.V[y] s

theorem exec_sneReg (x y : Reg) (s : State) :
    exec (.sneReg x y) s = .next { s with pc := s.pc + if s.V[x].toNat ≠ s.V[y].toNat then 4#16 else 2#16 } :=
  exec_sneImm x s.V[y] s

/-- Settles O17: each skip's test compares the two registers' values. -/
theorem registerSkips : Obligations.RegisterSkips := fun x y =>
  ⟨decodeWord_ofNat_XYN (i := .seReg x y) rfl rfl, decodeWord_ofNat_XYN (i := .sneReg x y) rfl rfl,
    fun s => ⟨exec_seReg x y s, exec_sneReg x y s⟩⟩

/-! ### Copies and logic (R173 to R176) -/

/-- Settles O19: four patterns, and four next states that write V[x] and pc alone. -/
theorem copyAndLogic : Obligations.CopyAndLogic := fun x y =>
  ⟨decodeWord_ofNat_XYN (i := .ldReg x y) rfl rfl, decodeWord_ofNat_XYN (i := .or x y) rfl rfl,
    decodeWord_ofNat_XYN (i := .and x y) rfl rfl, decodeWord_ofNat_XYN (i := .xor x y) rfl rfl,
    fun _ => ⟨rfl, rfl, rfl, rfl⟩⟩

/-! ### Flagged operations (R26, R170, R177 to R182) -/

theorem byte_sub_eq_ofNat (a b : Byte) : a - b = BitVec.ofNat 8 ((256 + a.toNat - b.toNat) % 256) := by
  have := b.isLt
  apply BitVec.eq_of_toNat_eq
  rw [BitVec.toNat_sub, BitVec.toNat_ofNat]
  omega

theorem flagByte_decide (P : Prop) [Decidable P] : flagByte (decide P) = if P then 1#8 else 0#8 := by
  by_cases h : P <;> simp [flagByte, h]

/-- A flagged instruction whose result and flag are `r` and `f` (R170). -/
theorem finishFlagged_next {s : State} {x : Reg} {result r f : Byte} {flag : Bool} (hr : result = r)
    (hf : flagByte flag = f) :
    Host.Outcome.next (φ := Fault) (ρ := Refusal) (s.finishFlagged x result flag) =
      .next { s with V := (s.V.set x r).set 15 f, pc := s.pc + 2#16 } := by
  subst hr hf
  rfl

theorem exec_addReg (x y : Reg) (s : State) :
    exec (.addReg x y) s = .next { s with
      V := (s.V.set x (BitVec.ofNat 8 ((s.V[x].toNat + s.V[y].toNat) % 256))).set 15
        (if s.V[x].toNat + s.V[y].toNat > 255 then 1#8 else 0#8), pc := s.pc + 2#16 } :=
  finishFlagged_next (byte_add_eq_ofNat _ _) (flagByte_decide _)

theorem exec_sub (x y : Reg) (s : State) :
    exec (.sub x y) s = .next { s with
      V := (s.V.set x (BitVec.ofNat 8 ((256 + s.V[x].toNat - s.V[y].toNat) % 256))).set 15
        (if s.V[x].toNat > s.V[y].toNat then 1#8 else 0#8), pc := s.pc + 2#16 } :=
  finishFlagged_next (byte_sub_eq_ofNat _ _) (flagByte_decide _)

theorem exec_subn (x y : Reg) (s : State) :
    exec (.subn x y) s = .next { s with
      V := (s.V.set x (BitVec.ofNat 8 ((256 + s.V[y].toNat - s.V[x].toNat) % 256))).set 15
        (if s.V[y].toNat > s.V[x].toNat then 1#8 else 0#8), pc := s.pc + 2#16 } :=
  finishFlagged_next (byte_sub_eq_ofNat _ _) (flagByte_decide _)

/-- Settles O20: the results and flags of `finishFlagged`, as numbers. -/
theorem addAndSubtract : Obligations.AddAndSubtract := fun x y =>
  ⟨decodeWord_ofNat_XYN (i := .addReg x y) rfl rfl, decodeWord_ofNat_XYN (i := .sub x y) rfl rfl,
    decodeWord_ofNat_XYN (i := .subn x y) rfl rfl, fun s => ⟨exec_addReg x y s, exec_sub x y s, exec_subn x y s⟩⟩

theorem byte_shr_eq_ofNat (a : Byte) : a >>> 1 = BitVec.ofNat 8 (a.toNat / 2) := by
  have := a.isLt
  apply BitVec.eq_of_toNat_eq
  rw [BitVec.toNat_ushiftRight, Nat.shiftRight_eq_div_pow, BitVec.toNat_ofNat]
  omega

theorem byte_shl_eq_ofNat (a : Byte) : a <<< 1 = BitVec.ofNat 8 (a.toNat * 2 % 256) := by
  apply BitVec.eq_of_toNat_eq
  rw [BitVec.toNat_shiftLeft, Nat.shiftLeft_eq, BitVec.toNat_ofNat]
  omega

theorem flagByte_bitOutRight (a : Byte) : flagByte (bitOutRight a) = BitVec.ofNat 8 (a.toNat % 2) := by
  rw [bitOutRight, BitVec.getLsbD, Nat.testBit_zero, flagByte_decide]
  rcases Nat.mod_two_eq_zero_or_one a.toNat with h | h <;> simp [h]

theorem flagByte_bitOutLeft (a : Byte) : flagByte (bitOutLeft a) = BitVec.ofNat 8 (a.toNat / 128) := by
  have hlt := a.isLt
  rw [bitOutLeft, BitVec.getLsbD, Nat.testBit_eq_decide_div_mod_eq, flagByte_decide]
  have hcases : a.toNat / 128 = 0 ∨ a.toNat / 128 = 1 := by omega
  rcases hcases with h | h <;> simp [h]

/-- Settles O21: the operand of both shifts is V[x], halved or doubled, and the bit that leaves it goes to VF. -/
theorem shiftsReadVx : Obligations.ShiftsReadVx := fun x y =>
  ⟨decodeWord_ofNat_XYN (i := .shr x y) rfl rfl, decodeWord_ofNat_XYN (i := .shl x y) rfl rfl,
    fun _ => ⟨finishFlagged_next (byte_shr_eq_ofNat _) (flagByte_bitOutRight _),
      finishFlagged_next (byte_shl_eq_ofNat _) (flagByte_bitOutLeft _)⟩⟩

/-! ### Random AND (R183) -/

/-- A masked byte has no bit outside the mask. -/
theorem and_and_not_self (v m : Byte) : v &&& m &&& ~~~m = 0#8 := by
  rw [BitVec.and_assoc, BitVec.and_not_self]
  exact BitVec.and_zero

/-- Settles O22: V[x] is the masked draw, and the draw counter goes on by one. -/
theorem randomAndMasksAFreshDraw : Obligations.RandomAndMasksAFreshDraw := by
  refine fun x nn => ⟨decodeWord_ofNat_XI (i := .rnd x nn) rfl rfl, fun s => ⟨_, rfl, rfl, rfl, rfl, ?_, rfl⟩⟩
  have hx : (s.V.set x (Config.randomByte s.draws &&& nn))[x] = Config.randomByte s.draws &&& nn := by simp
  exact (congrArg (· &&& ~~~nn) hx).trans (and_and_not_self _ nn)

/-! ### Add to index (R201) -/

/-- Settles O24: the 16-bit sum of I and the zero-extended register, as a number. -/
theorem addToIndexWraps : Obligations.AddToIndexWraps := by
  refine fun x => ⟨decodeWord_ofNat_XI (i := .addI x) rfl rfl, fun s => ?_⟩
  have hsum : s.I + zextByte s.V[x] = BitVec.ofNat 16 ((s.I.toNat + s.V[x].toNat) % 65536) :=
    BitVec.eq_of_toNat_eq (by simp)
  rw [← hsum]
  rfl

end Sys2Proof.Machine
end

section
/-! Proofs of the statements about data accesses: the digits, the dump, the load, a dump over the next instruction, and the
canonical form of memory. -/

namespace Sys2Proof.Machine

/-! ### Stored bytes (R65) -/

theorem Memory.read_writeBytes_at (m : Memory) (a : Nat) {vs : List Byte} {j : Nat} (h : j < vs.length) :
    (m.writeBytes a vs).read (a + j) = vs.getD j 0#8 := by
  rw [Memory.read_writeBytes, if_pos (by omega), Nat.add_sub_cancel_left]

theorem Memory.read_writeBytes_outside (m : Memory) {a b : Nat} {vs : List Byte} (h : b < a ∨ a + vs.length ≤ b) :
    (m.writeBytes a vs).read b = m.read b := by
  rw [Memory.read_writeBytes, if_neg (by omega)]

/-! ### Digits (R203) -/

/-- The digit that Fx33 stores at `I + j` (R203). -/
theorem read_bcd (m : Memory) (a : Nat) (v : Byte) {j d : Nat} (hj : j < 3)
    (hd : (bcdDigits v).getD j 0#8 = BitVec.ofNat 8 d) (hlt : d < 256) :
    ((m.writeBytes a (bcdDigits v)).read (a + j)).toNat = d := by
  rw [Memory.read_writeBytes_at m a (by exact hj), hd, BitVec.toNat_ofNat, Nat.mod_eq_of_lt hlt]

/-- Settles O25: the three digits lie at I, I+1 and I+2, the write touches no other address, and past 4095 the range check
faults. -/
theorem bcdStoresThreeDigits : Obligations.BcdStoresThreeDigits := by
  refine fun x => ⟨decodeWord_ofNat_XI (i := .ldB x) rfl rfl, fun s => ⟨fun hfit => ?_, fun hgt => ?_⟩⟩
  · have hv := s.V[x].isLt
    refine ⟨_, exec_ldB_of_fit (by omega), ?_, ?_, ?_, fun a ha => ?_, rfl, rfl⟩
    · exact read_bcd s.M s.I.toNat s.V[x] (j := 0) (by decide) rfl (by omega)
    · exact read_bcd s.M s.I.toNat s.V[x] (by decide) rfl (by omega)
    · exact read_bcd s.M s.I.toNat s.V[x] (by decide) rfl (by omega)
    · exact Memory.read_writeBytes_outside s.M (by simp only [bcdDigits, List.length_cons, List.length_nil]; omega)
  · exact exec_ldB_of_exceed (by omega)

/-! ### Dump and load (R204, R205) -/

/-- A byte that a dump stored (R204). -/
theorem read_dump (s : State) {x i : Reg} (h : i ≤ x) :
    (s.M.writeBytes s.I.toNat (regsUpTo s x)).read (s.I.toNat + i.val) = s.V[i] := by
  have hle : i.val ≤ x.val := h
  rw [Memory.read_writeBytes_at s.M _ (by rw [regsUpTo_length]; omega), regsUpTo_getD s x i h]

/-- Settles O26: register `i` lies at `I + i`, the write touches no other address, and past 4095 the range check faults. -/
theorem dumpStoresRegisters : Obligations.DumpStoresRegisters := by
  refine fun x => ⟨decodeWord_ofNat_XI (i := .ldMemV x) rfl rfl, fun s => ⟨fun hfit => ?_, fun hgt => ?_⟩⟩
  · refine ⟨_, exec_ldMemV_of_fit (by omega), fun i hi => read_dump s hi, fun a ha => ?_, rfl, rfl⟩
    exact Memory.read_writeBytes_outside s.M (by rw [regsUpTo_length]; omega)
  · exact exec_ldMemV_of_exceed (by omega)

/-- Settles O27: `loadUpTo` is the register file after the load, and past 4095 the range check faults. -/
theorem loadReadsRegisters : Obligations.LoadReadsRegisters := by
  refine fun x => ⟨decodeWord_ofNat_XI (i := .ldVMem x) rfl rfl, fun s => ⟨fun hfit => ?_, fun hgt => ?_⟩⟩
  · exact ⟨_, exec_ldVMem_of_fit (by omega), loadUpTo_getElem s x, rfl, rfl⟩
  · exact exec_ldVMem_of_exceed (by omega)

/-- Settles O28: the load reads each register from the address where the dump stored it. -/
theorem loadAfterDumpRestores : Obligations.LoadAfterDumpRestores := by
  intro x s t u hfit hdump hM hI
  rw [exec_ldMemV_of_fit (by omega)] at hdump
  cases hdump
  refine ⟨_, exec_ldVMem_of_fit (by rw [hI]; simp only; omega), rfl, hI, fun i hi => ?_⟩
  calc (loadUpTo u x)[i] = u.M.read (u.I.toNat + i.val) := (loadUpTo_getElem u x i).trans (if_pos hi)
    _ = s.V[i] := by rw [hM, hI]; exact read_dump s hi

/-- Settles O29: pc after the dump is I, so the fetch composes the bytes of V0 and V1. -/
theorem storedWordIsFetchedNext : Obligations.StoredWordIsFetchedNext := by
  intro x s t hx hI hfit hdump
  rw [exec_ldMemV_of_fit (by omega)] at hdump
  cases hdump
  have hpc : (s.pc + 2#16).toNat = s.I.toNat := by
    rw [hI]
    exact BitVec.toNat_add_of_lt (by rw [BitVec.toNat_ofNat]; omega)
  have h0 := read_dump s (x := x) (i := 0) (Fin.zero_le x)
  have h1 := read_dump s (x := x) (i := 1) hx
  rw [State.fetch_of_le _ (by rw [hpc]; omega)]
  simp only [hpc]
  exact congrArg some (congrArg₂ composeWord h0 h1)

/-! ### The canonical form (log entry 1) -/

/-- Below its first cell a canonical memory reads as unlisted. -/
theorem Memory.read_of_below {m : Memory} {a : Nat} (h : ∀ c ∈ m, a < c.1) : m.read a = unlisted a := by
  induction m with
  | nil => rfl
  | cons c rest ih =>
    have hne : a ≠ c.1 := Nat.ne_of_lt (h c (by simp))
    rw [Memory.read, if_neg hne, ih fun d hd => h d (by simp [hd])]

/-- The first cell of a canonical memory shows: a memory that lists nothing up to there reads otherwise. -/
theorem Memory.read_ne_of_below {a : Nat} {v : Byte} {m n : Memory} (hm : Memory.wf ((a, v) :: m) = true)
    (hn : ∀ c ∈ n, a < c.1) : Memory.read ((a, v) :: m) a ≠ n.read a := by
  obtain ⟨-, hv, -, -⟩ := Memory.wf_cons.1 hm
  rw [Memory.read, if_pos rfl, Memory.read_of_below hn]
  exact hv

/-- Cells that all lie above a cell in front of them all lie above a lower address. -/
theorem below_cons {a b : Nat} {w : Byte} {n : Memory} (hab : a < b) (hlt : ∀ c ∈ n, b < c.1) :
    ∀ c ∈ (b, w) :: n, a < c.1 :=
  List.forall_mem_cons.2 ⟨hab, fun c hc => hab.trans (hlt c hc)⟩

/-- Canonical memories that read alike have the same first cell, and so the same cells. -/
theorem Memory.eq_of_read {m n : Memory} (hm : m.wf = true) (hn : n.wf = true)
    (h : ∀ a, a < 4096 → m.read a = n.read a) : m = n := by
  induction m generalizing n with
  | nil =>
    cases n with
    | nil => rfl
    | cons d n =>
      obtain ⟨hb, -, -, -⟩ := Memory.wf_cons.1 hn
      exact absurd (h d.1 hb).symm (Memory.read_ne_of_below hn (by simp))
  | cons c m ih =>
    obtain ⟨a, v⟩ := c
    obtain ⟨ha, -, hlt, hm'⟩ := Memory.wf_cons.1 hm
    cases n with
    | nil => exact absurd (h a ha) (Memory.read_ne_of_below hm (by simp))
    | cons d n =>
      obtain ⟨b, w⟩ := d
      obtain ⟨hb, -, hlt', hn'⟩ := Memory.wf_cons.1 hn
      rcases Nat.lt_trichotomy a b with hab | rfl | hab
      · exact absurd (h a ha) (Memory.read_ne_of_below hm (below_cons hab hlt'))
      · have hvw : v = w := by simpa [Memory.read] using h a ha
        have htail : ∀ x, x < 4096 → Memory.read m x = Memory.read n x := fun x hx => by
          by_cases hxa : x = a
          · rw [hxa, Memory.read_of_below hlt, Memory.read_of_below hlt']
          · simpa [Memory.read, hxa] using h x hx
        rw [hvw, ih hm' hn' htail]
      · exact absurd (h b hb).symm (Memory.read_ne_of_below hn (below_cons hab hlt))

/-- Settles O30, by induction on the cells. -/
theorem memoriesThatReadAlikeAreEqual : Obligations.MemoriesThatReadAlikeAreEqual := fun _ _ => Memory.eq_of_read

end Sys2Proof.Machine
end

section
/-! Proofs of the display statements. What a sprite sets is a list without repetition (`nodup_setPixels`), its members are
the covered pixels (`mem_spriteOf`), and `drawPixel_foldl` says what drawing such a list does. -/

namespace Sys2Proof.Machine

/-! ### The clear screen (R120) -/

/-- Settles O31: the blank screen has no lit cell. -/
theorem clearScreenZeroesEveryCell : Obligations.ClearScreenZeroesEveryCell :=
  ⟨decodeWord_encode (i := .cls) rfl, fun _ => ⟨_, rfl, fun c _ => Framebuffer.cell_blankScreen c, rfl, rfl⟩⟩

/-! ### Draws that fault (R71, R124, R264) -/

/-- Settles O33: the range check comes first. -/
theorem drawPastMemoryFaults : Obligations.DrawPastMemoryFaults := fun _ _ _ _ hn h => exec_drw_of_exceed hn h

theorem offGrid_eq_true {p : Nat × Nat} : offGrid p = true ↔ p.1 > 63 ∨ p.2 > 31 := by
  simp [offGrid]

/-- Row-major order of pixels (R264). -/
def Before (p q : Nat × Nat) : Prop := p.2 < q.2 ∨ (p.2 = q.2 ∧ p.1 < q.1)

/-- The columns of a sprite byte come in rising order. -/
theorem pairwise_setColumns (b : Byte) : (setColumns b).Pairwise (· < ·) :=
  List.pairwise_lt_range.filter _

/-- The pixels of a sprite come in row-major order (R122, R264). -/
theorem pairwise_setPixels (px py : Nat) (rows : List Byte) : (setPixels px py rows).Pairwise Before := by
  induction rows generalizing py with
  | nil => exact .nil
  | cons b rest ih =>
    refine List.pairwise_append.2 ⟨?_, ih (py + 1), fun p hp q hq => ?_⟩
    · refine (pairwise_setColumns b).map _ fun c d hcd => .inr ⟨rfl, ?_⟩
      exact Nat.add_lt_add_left hcd px
    · obtain ⟨c, -, rfl⟩ := List.mem_map.1 hp
      obtain ⟨r, c', -, -, -, rfl⟩ := mem_setPixels.1 hq
      exact .inl (by simp only; omega)

/-- In a list in row-major order, the first member with a property is the one before which none has it. -/
theorem find?_eq_some_of_before {l : List (Nat × Nat)} {f : Nat × Nat → Bool} {p : Nat × Nat} (hl : l.Pairwise Before)
    (hp : p ∈ l) (hf : f p = true) (hfirst : ∀ q ∈ l, Before q p → f q = false) : l.find? f = some p := by
  obtain ⟨before, after, rfl⟩ := List.append_of_mem hp
  obtain ⟨-, -, horder⟩ := List.pairwise_append.1 hl
  refine List.find?_eq_some_iff_append.2 ⟨hf, before, after, rfl, fun q hq => ?_⟩
  rw [hfirst q (by simp [hq]) (horder q hq p (by simp))]
  rfl

/-- Settles O34: the named pixel is the first off the grid in the order in which the sprite's pixels are drawn. -/
theorem drawPastEdgeFaults : Obligations.DrawPastEdgeFaults := by
  intro x y n s col row hfit hcov hoff hfirst
  refine exec_drw_of_offGrid (p := (col, row)) (.inr hfit) ?_
  refine find?_eq_some_of_before (pairwise_setPixels _ _ _) (mem_spriteOf.2 hcov) (offGrid_eq_true.2 hoff) ?_
  rintro ⟨c, r⟩ hq hbefore
  obtain ⟨hc, hr⟩ := hfirst c r (mem_spriteOf.1 hq) hbefore
  exact Bool.eq_false_iff.2 fun h => by have := offGrid_eq_true.1 h; omega

/-! ### Draws that complete (R121, R123, R125) -/

section OnGrid

variable {s : State} {x y : Reg} {n : Nat}
  (hgrid : ∀ col row, SpriteCovers s x y n col row → col ≤ 63 ∧ row ≤ 31)

include hgrid

theorem offGrid_spriteOf : ∀ p ∈ spriteOf x y n s, offGrid p = false := by
  rintro ⟨col, row⟩ hp
  obtain ⟨hcol, hrow⟩ := hgrid col row (mem_spriteOf.1 hp)
  exact Bool.eq_false_iff.2 fun h => by have := offGrid_eq_true.1 h; omega

/-- A draw whose bytes lie in memory and whose set bits lie on the grid completes. -/
theorem exec_drw_of_covers (hfit : n = 0 ∨ s.I.toNat + n ≤ 4096) :
    exec (.drw x y n) s = .next (finishDraw s (drawPixels s.fb (spriteOf x y n s))) :=
  exec_drw_of_onGrid hfit (List.find?_eq_none.2 fun p hp => by simp [offGrid_spriteOf hgrid p hp])

/-- Drawing inverts the covered cells. -/
theorem cell_drawPixels {col row : Nat} (hcol : col ≤ 63) (hrow : row ≤ 31) :
    (drawPixels s.fb (spriteOf x y n s)).1.cell (row * 64 + col) =
      (s.fb.cell (row * 64 + col) != decide ((col, row) ∈ spriteOf x y n s)) := by
  obtain ⟨hcells, -⟩ := drawPixel_foldl (spriteOf x y n s) (s.fb, false) (nodup_setPixels _ _ _) (offGrid_spriteOf hgrid)
  exact hcells col row (by omega) (by omega)

/-- The collision flag tells whether a covered cell was lit. -/
theorem hit_drawPixels : (drawPixels s.fb (spriteOf x y n s)).2 = true ↔
    ∃ col row, SpriteCovers s x y n col row ∧ s.fb.cell (row * 64 + col) = true := by
  obtain ⟨-, hflag⟩ := drawPixel_foldl (spriteOf x y n s) (s.fb, false) (nodup_setPixels _ _ _) (offGrid_spriteOf hgrid)
  rw [drawPixels, hflag, Bool.false_or, List.any_eq_true, Prod.exists]
  exact exists₂_congr fun col row => and_congr_left' mem_spriteOf

end OnGrid

theorem bne_ne_self {a b : Bool} : (a != b) ≠ a ↔ b = true := by
  cases a <;> simp

/-- Settles O32: the draw completes, and its frame and flag are those of `drawPixels`. -/
theorem drawXorsCoveredCells : Obligations.DrawXorsCoveredCells := by
  refine fun x y n => ⟨fun hn => decodeWord_ofNat_XYN (i := .drw x y n) (decide_eq_true hn) rfl, fun s hfit hgrid => ?_⟩
  refine ⟨_, exec_drw_of_covers hgrid hfit, fun col row hcol hrow => ?_, ⟨_, hit_drawPixels hgrid, rfl⟩, rfl, rfl, rfl⟩
  show (drawPixels s.fb (spriteOf x y n s)).1.cell (row * 64 + col) ≠ _ ↔ _
  rw [cell_drawPixels hgrid hcol hrow, bne_ne_self, decide_eq_true_iff, mem_spriteOf]

/-! ### The same sprite twice -/

/-- A completed draw moves no sprite whose coordinates are not in VF. -/
theorem spriteOf_finishDraw {x y : Reg} (hx : x ≠ 15) (hy : y ≠ 15) (n : Nat) (s : State) (d : Framebuffer × Bool) :
    spriteOf x y n (finishDraw s d) = spriteOf x y n s := by
  have hreg : ∀ r : Reg, r ≠ 15 → (finishDraw s d).reg r = s.reg r := fun r hr =>
    State.reg_setReg_other { s with fb := d.1 } _ (Ne.symm hr)
  unfold spriteOf
  rw [hreg x hx, hreg y hy]
  rfl

theorem covers_finishDraw {x y : Reg} (hx : x ≠ 15) (hy : y ≠ 15) {n : Nat} {s : State} {d : Framebuffer × Bool}
    {col row : Nat} : SpriteCovers (finishDraw s d) x y n col row ↔ SpriteCovers s x y n col row := by
  rw [← mem_spriteOf, spriteOf_finishDraw hx hy, mem_spriteOf]

/-- VF after a completed draw is the collision flag. -/
theorem finishDraw_VF (s : State) (d : Framebuffer × Bool) : (finishDraw s d).V[15] = flagByte d.2 :=
  Vector.getElem_set_self (by decide)

/-- Settles O35: each cell is inverted twice or not at all, and the second draw hits the covered cells that the first one
lit. -/
theorem drawTwiceRestoresTheScreen : Obligations.DrawTwiceRestoresTheScreen := by
  intro x y n s hx hy hfit hgrid
  set t := finishDraw s (drawPixels s.fb (spriteOf x y n s)) with ht
  have hcov : ∀ col row, SpriteCovers t x y n col row ↔ SpriteCovers s x y n col row := fun _ _ =>
    covers_finishDraw hx hy
  have hgrid' : ∀ col row, SpriteCovers t x y n col row → col ≤ 63 ∧ row ≤ 31 := fun col row h =>
    hgrid col row ((hcov col row).1 h)
  have hfirst : ∀ {col row : Nat}, col ≤ 63 → row ≤ 31 → t.fb.cell (row * 64 + col) =
      (s.fb.cell (row * 64 + col) != decide ((col, row) ∈ spriteOf x y n s)) := cell_drawPixels hgrid
  have hlit : ∀ {col row : Nat}, SpriteCovers s x y n col row →
      t.fb.cell (row * 64 + col) = !s.fb.cell (row * 64 + col) := fun {col row} h => by
    obtain ⟨hcol, hrow⟩ := hgrid col row h
    rw [hfirst hcol hrow, decide_eq_true (mem_spriteOf.2 h), Bool.bne_true]
  have hhit := hit_drawPixels hgrid'
  refine ⟨t, _, exec_drw_of_covers hgrid hfit, exec_drw_of_covers hgrid' hfit, ?frame, ?unlit, ?allLit⟩
  case frame =>
    refine Framebuffer.ext_cells fun c hc => ?_
    have hsplit : c = c / 64 * 64 + c % 64 := by omega
    rw [hsplit]
    show (drawPixels t.fb (spriteOf x y n t)).1.cell _ = _
    rw [cell_drawPixels hgrid' (by omega) (by omega), hfirst (by omega) (by omega), ht, spriteOf_finishDraw hx hy,
      Bool.bne_assoc, bne_self_eq_false, Bool.bne_false]
  case unlit =>
    rintro ⟨col, row, h, hoff⟩
    rw [finishDraw_VF, hhit.2 ⟨col, row, (hcov col row).2 h, by rw [hlit h, hoff]; rfl⟩]
    rfl
  case allLit =>
    intro hall
    have hmiss : (drawPixels t.fb (spriteOf x y n t)).2 = false := Bool.eq_false_iff.2 fun h => by
      obtain ⟨col, row, hc, hcell⟩ := hhit.1 h
      rw [hlit ((hcov col row).1 hc), hall col row ((hcov col row).1 hc)] at hcell
      cases hcell
    rw [finishDraw_VF, hmiss]
    rfl

end Sys2Proof.Machine
end

section
/-! Proofs of the keypad and timer statements: key tests, the key wait and what ends it, key events, and the timer's step. -/

namespace Sys2Proof.Machine

/-! ### Key tests (R230, R231) -/

/-- Settles O36: up to 15 the register's value is the number of the tested key, and above it both tests fault. -/
theorem keySkipsTestTheKey : Obligations.KeySkipsTestTheKey := by
  refine fun x => ⟨decodeWord_ofNat_XI (i := .skp x) rfl rfl, decodeWord_ofNat_XI (i := .sknp x) rfl rfl, fun s =>
    ⟨fun k hk => ?_, fun hgt => ⟨exec_skp_of_ge hgt, exec_sknp_of_ge hgt⟩⟩⟩
  have hkey : s.keys[s.V[x].toNat]'(hk ▸ k.isLt) = s.keys[k] := by simp only [hk]; rfl
  rw [exec_skp_of_lt (hk ▸ k.isLt), exec_sknp_of_lt (hk ▸ k.isLt), hkey]
  cases s.keys[k] <;> exact ⟨rfl, rfl⟩

/-! ### The sound timer (R234, R279) -/

/-- Settles O38: the tone is the comparison of ST, which now is V[x], with 0. -/
theorem soundTimerDrivesTheTone : Obligations.SoundTimerDrivesTheTone := by
  refine fun x => ⟨decodeWord_ofNat_XI (i := .ldSTV x) rfl rfl, fun s => ⟨_, rfl, rfl, ?_⟩⟩
  exact bne_iff_ne.trans (not_congr BitVec.toNat_inj.symm)

/-! ### The key wait (R235, R236) -/

/-- Settles O39: the entry writes run state and latch alone. -/
theorem keyWaitHoldsPc : Obligations.KeyWaitHoldsPc := fun x =>
  ⟨decodeWord_ofNat_XI (i := .ldVK x) rfl rfl, fun _ => rfl⟩

/-- Settles O40: the CPU's step in a wait, with a latched key and without. -/
theorem keyWaitCompletesWithTheLatchedKey : Obligations.KeyWaitCompletesWithTheLatchedKey := by
  refine fun s rest x hc hr => ⟨fun k hk => ?_, fun hk => ?_⟩ <;> rw [step_of_cpuTurn hc]
  · exact cpuStep_of_latched hr hk
  · exact cpuStep_of_held hr hk

/-- Settles O41: the CPU's turn holds, and no other turn but Initialize writes run, pc or a register, nor the latch without a
press of a released key. -/
theorem onlyAPressWakesTheWait : Obligations.OnlyAPressWakesTheWait := by
  intro s t x hr hk h hinit hpress
  rcases cpuTurn_or_agenda s with ⟨rest, hc⟩ | ⟨e, rest, ha, he⟩
  · rw [step_of_cpuTurn hc, cpuStep_of_held (x := x) (by exact hr) (by exact hk)] at h
    cases h
    exact ⟨hr, hk, rfl, rfl⟩
  · rw [step_of_agenda ha] at h
    obtain ⟨hrun, -, -, hpc, hV, -, hlatch⟩ := turn_frame h he fun h => hinit rest (h ▸ ha)
    have hheld : ∀ k, e = .press k → s.keys[k] = true := fun k hek => hpress k rest (hek ▸ ha)
    exact ⟨hrun.trans hr, (hlatch hheld).trans hk, hpc, hV⟩

/-! ### Key events (R282, R283) -/

/-- Setting a key that is set changes nothing. -/
theorem set_of_held {keys : Vector Bool 16} {k : Key} (h : keys[k] = true) : keys.set k true = keys := by
  rw [← h]
  exact Vector.set_getElem_self _

/-- Settles O42: a press of a held key changes nothing, one of a released key sets the key, and the latch with it only in a
wait with an empty latch. -/
theorem pressAndReleaseMoveKeysAndLatch : Obligations.PressAndReleaseMoveKeysAndLatch := by
  refine fun s k rest => ⟨fun ha => ?_, fun ha => step_of_agenda ha⟩
  refine ⟨_, step_of_agenda ha, ?_⟩
  by_cases hk : s.keys[k] = true
  · rw [State.press_of_held (by exact hk)]
    exact ⟨(set_of_held hk).symm, fun hf => absurd (hk.symm.trans hf) (by decide), fun _ => rfl, rfl⟩
  have hk : s.keys[k] = false := Bool.eq_false_iff.2 hk
  by_cases hout : (∀ x, s.run ≠ .awaitingKey x) ∨ s.keyLatch ≠ none
  · rw [State.press_unlatched (by exact hk) (by exact hout)]
    exact ⟨rfl, fun _ x hr hl => (hout.elim (fun h => h x hr) fun h => h hl).elim, fun _ => rfl, rfl⟩
  · obtain ⟨⟨x, hr⟩, hl⟩ : (∃ x, s.run = .awaitingKey x) ∧ s.keyLatch = none := by simpa using hout
    rw [State.press_of_waiting (by exact hk) (by exact hr) (by exact hl)]
    exact ⟨rfl, fun _ _ _ _ => rfl, fun h => h.elim (fun ht => absurd (ht.symm.trans hk) (by decide)) (absurd · hout), rfl⟩

/-! ### The timer's step (R275, R276) -/

theorem countDown_toNat (t : Byte) : (countDown t).toNat = t.toNat - 1 := by
  unfold countDown
  split
  · simp [*]
  · bv_omega

/-- Settles O43: both timers count down, and nothing else is written. -/
theorem tickCountsBothTimersDown : Obligations.TickCountsBothTimersDown := fun s _ ha =>
  ⟨_, step_of_agenda ha, countDown_toNat s.DT, countDown_toNat s.ST, rfl⟩

/-- A range check does not read the timers. -/
theorem withRange_timerTick {n : Nat} {s go t : State} (h : withRange n s go = .next t) :
    withRange n s.timerTick go.timerTick = .next t.timerTick := by
  rcases withRange_cases h with ⟨hoob, rfl⟩ | ⟨hin, rfl⟩
  · exact withRange_of_oob _ hoob
  · exact withRange_of_in _ hin

theorem skipIf_timerTick (s : State) (b : Bool) : s.timerTick.skipIf b = (s.skipIf b).timerTick := by
  cases b <;> rfl

/-- Settles O44: what the other instructions read and write is apart from the timers. -/
theorem tickCommutesWithOtherInstructions : Obligations.TickCommutesWithOtherInstructions := by
  intro i s t hi h
  cases i with
  | ldVDT x => exact absurd rfl (hi x).1
  | ldDTV x => exact absurd rfl (hi x).2.1
  | ldSTV x => exact absurd rfl (hi x).2.2
  | ret =>
    rcases Nat.eq_zero_or_pos s.sp.val with hsp | hsp
    · cases (exec_ret_of_empty hsp).symm.trans h
      exact exec_ret_of_empty (s := s.timerTick) hsp
    · cases (exec_ret_of_pos hsp).symm.trans h
      exact exec_ret_of_pos (s := s.timerTick) hsp
  | call nnn =>
    rcases Nat.lt_or_ge s.sp.val 16 with hsp | hsp
    · cases (exec_call_of_lt nnn hsp).symm.trans h
      exact exec_call_of_lt nnn (s := s.timerTick) hsp
    · have hfull : s.sp.val = 16 := by omega
      cases (exec_call_of_full nnn hfull).symm.trans h
      exact exec_call_of_full nnn (s := s.timerTick) hfull
  | drw x y n =>
    by_cases hfit : n = 0 ∨ s.I.toNat + n ≤ 4096
    · cases hp : (spriteOf x y n s).find? offGrid with
      | some p =>
        cases (exec_drw_of_offGrid hfit hp).symm.trans h
        exact exec_drw_of_offGrid (s := s.timerTick) hfit hp
      | none =>
        cases (exec_drw_of_onGrid hfit hp).symm.trans h
        exact exec_drw_of_onGrid (s := s.timerTick) hfit hp
    · have hn : 0 < n ∧ 4096 < s.I.toNat + n := by omega
      cases (exec_drw_of_exceed hn.1 hn.2).symm.trans h
      exact exec_drw_of_exceed (s := s.timerTick) hn.1 hn.2
  | skp x =>
    rcases Nat.lt_or_ge s.V[x].toNat 16 with hx | hx
    · cases (exec_skp_of_lt hx).symm.trans h
      rw [← skipIf_timerTick]
      exact exec_skp_of_lt (s := s.timerTick) hx
    · cases (exec_skp_of_ge hx).symm.trans h
      exact exec_skp_of_ge (s := s.timerTick) hx
  | sknp x =>
    rcases Nat.lt_or_ge s.V[x].toNat 16 with hx | hx
    · cases (exec_sknp_of_lt hx).symm.trans h
      rw [← skipIf_timerTick]
      exact exec_sknp_of_lt (s := s.timerTick) hx
    · cases (exec_sknp_of_ge hx).symm.trans h
      exact exec_sknp_of_ge (s := s.timerTick) hx
  | seImm | sneImm | seReg | sneReg =>
    cases h
    rw [← skipIf_timerTick]
    rfl
  | ldB | ldMemV | ldVMem => exact withRange_timerTick h
  | cls | jp | jpV0 | ldImm | addImm | ldReg | or | and | xor | addReg | sub | shr | subn | shl | ldI | rnd | ldVK | addI
  | ldF => cases h; rfl

/-! ### Fairness (R276) -/

/-- In a run a tick counts DT down. -/
theorem DT_of_tick {r : Nat → State} {e : Nat → Event} (hrun : IsRun r e) {m : Nat} (he : e m = .tick) :
    (r (m + 1)).DT.toNat = (r m).DT.toNat - 1 := by
  have h := hrun m
  rw [he] at h
  rw [← Host.Outcome.next.inj h]
  exact countDown_toNat _

/-- A delay timer that only the timer writes never rises. -/
theorem DT_le_of_le {r : Nat → State} {e : Nat → Event} {k m : Nat} (hrun : IsRun r e)
    (hkeep : ∀ m, k ≤ m → e m ≠ .tick → (r (m + 1)).DT = (r m).DT) (hm : k ≤ m) :
    (r m).DT.toNat ≤ (r k).DT.toNat := by
  induction m, hm using Nat.le_induction with
  | base => exact le_rfl
  | succ m hm ih =>
    by_cases he : e m = .tick
    · exact (DT_of_tick hrun he ▸ Nat.sub_le _ _).trans ih
    · exact hkeep m hm he ▸ ih

/-- Fairness: from every step on, DT is found at 0 or the timer steps. -/
theorem TimerFair.exists_zero_or_tick {r : Nat → State} {e : Nat → Event} (h : TimerFair r e) (k : Nat) :
    ∃ m, k ≤ m ∧ ((r m).DT = 0#8 ∨ e m = .tick) := by
  by_contra hno
  refine h ⟨k, fun m hm => ?_⟩
  have hm' : ¬ ((r m).DT = 0#8 ∨ e m = .tick) := fun h => hno ⟨m, hm, h⟩
  exact ⟨.inl fun h => hm' (.inl h), fun h => hm' (.inr h)⟩

/-- Settles O45, by induction on a bound of DT: the next tick that fairness gives lowers it. -/
theorem fairTimerReachesZero : Obligations.FairTimerReachesZero := by
  intro r e k hrun hfair hkeep
  generalize hd : (r k).DT.toNat = d
  induction d using Nat.strong_induction_on generalizing k with
  | _ d ih =>
    obtain ⟨m, hm, hzero | htick⟩ := hfair.exists_zero_or_tick k
    · exact ⟨m, hm, hzero⟩
    · by_cases h0 : (r m).DT = 0#8
      · exact ⟨m, hm, h0⟩
      have hpos : (r m).DT.toNat ≠ 0 := fun h => h0 (BitVec.eq_of_toNat_eq h)
      have hle := DT_le_of_le hrun hkeep hm
      have hnext := DT_of_tick hrun htick
      obtain ⟨m', hm', hzero⟩ :=
        ih _ (by omega) (m + 1) (fun j hj => hkeep j (by omega)) rfl
      exact ⟨m', by omega, hzero⟩

end Sys2Proof.Machine
end

section
/-! Proofs of the statements about the host: reset, Initialize, LoadProgram and a launch. -/

namespace Sys2Proof.Machine

/-! ### Reset and Initialize (R300 to R302) -/

/-- Settles O53: the fields of `State.reset`; memory lists nothing, so 0..79 read as the font. -/
theorem resetValues : Obligations.ResetValues :=
  ⟨rfl, rfl, rfl, rfl, fun j => ⟨Vector.getElem_replicate j.isLt, Vector.getElem_replicate j.isLt⟩,
    fun c _ => Framebuffer.cell_blankScreen c, fun _ _ => rfl, rfl, rfl, fun k => Vector.getElem_replicate k.isLt,
    rfl, rfl, rfl, rfl, rfl⟩

/-- Settles O48: `initCore`, field by field. -/
theorem initializeResetsEveryItem : Obligations.InitializeResetsEveryItem := fun s rest ha =>
  ⟨State.initCore { s with agenda := rest }, step_of_agenda ha, rfl, rfl, rfl, rfl,
    fun j => ⟨Vector.getElem_replicate j.isLt, Vector.getElem_replicate j.isLt⟩,
    fun c _ => Framebuffer.cell_blankScreen c, rfl, rfl, rfl, rfl, rfl, rfl, rfl, rfl, State.read_initCore _, rfl, rfl⟩

/-- Initialize's memory lists nothing below 80 already (R301). -/
theorem State.initCore_memory_idem (s : State) (l : List Event) :
    (State.initCore { s.initCore with agenda := l }).M = s.initCore.M := by
  rw [State.initCore_memory, State.initCore_memory, List.filter_filter]
  simp

/-- Settles O49: every field that Initialize writes holds its value already, memory by `initCore_memory`. -/
theorem initializeTwiceIsOnce : Obligations.InitializeTwiceIsOnce := by
  intro s t u rest ha ht hu
  rw [step_of_agenda ha] at ht
  cases ht
  rw [step_of_agenda (e := .init) (rest := rest) rfl] at hu
  cases hu
  have hM := State.initCore_memory_idem { s with agenda := .init :: rest } rest
  unfold State.initCore State.publish at hM ⊢
  simp only at hM ⊢
  rw [hM]

/-! ### LoadProgram (R303, R304, R306) -/

/-- On the turn of a load directly after Initialize, a step is LoadProgram (R303). -/
theorem step_of_load {s : State} {rom : List Byte} {rest : List Event} (ha : s.agenda = .load rom :: rest)
    (hj : s.justInitialized = true) :
    step s = .next (State.loadProgram { s with agenda := rest, justInitialized := false } rom) := by
  rw [step_of_agenda ha]
  exact turn_load rom hj

/-- Settles O50: the two branches of `loadProgram`. -/
theorem loadWritesTheRomOrNothing : Obligations.LoadWritesTheRomOrNothing := by
  refine fun s rom rest ha hj => ⟨fun hle => ?_, fun hgt => ?_⟩ <;> rw [step_of_load ha hj]
  · rw [State.loadProgram_of_le _ hle]
    exact ⟨_, rfl, fun _ => Memory.read_writeBytes_at s.M 512, fun _ => Memory.read_writeBytes_outside s.M, rfl⟩
  · rw [State.loadProgram_of_gt _ hgt]

/-- The CPU's step leaves no Initialize directly behind it. -/
theorem cpuStep_justInitialized {s t : State} (hs : s.justInitialized = false) (h : cpuStep s = .next t) :
    t.justInitialized = false := by
  cases hr : s.run with
  | running =>
    rw [cpuStep_of_running hr] at h
    rcases cpuRunning_cases s with ⟨-, he⟩ | ⟨w, -, -, he⟩ | ⟨w, i, -, -, he⟩ <;> rw [he] at h
    · cases h
      exact hs
    · cases h
      simpa using hs
    · obtain ⟨u, hu, heff⟩ := exec_effect i { s with opcode := w }
      obtain ⟨-, -, -, -, -, hj⟩ := heff.frame
      rw [hu] at h
      cases h
      simpa [hj] using hs
  | awaitingKey x =>
    cases hk : s.keyLatch with
    | some k =>
      cases (cpuStep_of_latched hr hk).symm.trans h
      exact hs
    | none =>
      cases (cpuStep_of_held hr hk).symm.trans h
      exact hs
  | faulted => cases (cpuStep_of_faulted hr).symm.trans h

/-- Settles O51: a load is refused without the flag, and Initialize alone leaves the flag set. -/
theorem loadOnlyDirectlyAfterInitialize : Obligations.LoadOnlyDirectlyAfterInitialize := by
  refine ⟨fun s rom rest ha hj => ?_, fun s t h => ?_⟩
  · rw [step_of_agenda ha]
    simp [turn, hj]
  · rcases cpuTurn_or_agenda s with ⟨rest, hc⟩ | ⟨e, rest, ha, he⟩
    · rw [step_of_cpuTurn hc] at h
      rcases State.cpuTurn_iff.1 hc with ⟨ha, -⟩ | ha <;> simp [cpuStep_justInitialized rfl h, ha]
    · rw [step_of_agenda ha] at h
      by_cases hinit : e = .init
      · subst hinit
        cases h
        simp [ha]
      · obtain ⟨-, -, -, -, -, hj, -⟩ := turn_frame h he hinit
        simp [hj, ha, hinit]

/-- Settles O52: Initialize writes the font, the load after it writes the ROM, and neither writes another byte. -/
theorem launchMemoryIsFontAndRom : Obligations.LaunchMemoryIsFontAndRom := by
  intro s rom rest ha hle
  refine ⟨_, _, step_of_agenda ha, step_of_load (rom := rom) (rest := rest) rfl rfl, ?_⟩
  rw [State.loadProgram_of_le _ hle]
  refine ⟨rfl, rfl, rfl, fun a => ?_⟩
  rw [Memory.read_writeBytes]
  simp only [State.read_initCore]
  rcases Nat.lt_or_ge a 80 with hfont | hfont
  · rw [if_neg (by omega), if_pos hfont, if_pos hfont]
  · rw [if_neg (Nat.not_lt.2 hfont), if_neg (Nat.not_lt.2 hfont)]

end Sys2Proof.Machine
end
